-- ==== Sys2Proof/Word.lean ====
section
/-! DEFINITION. The two word types of the machine (spec/00_scope.md rule R2: data width 8, address
width 16). Arithmetic on them is modular (00_scope.md section 7), which is what `BitVec` gives. -/

namespace Sys2Proof

/-- A byte: a register, a memory cell, an instruction byte. -/
abbrev Byte := BitVec 8

/-- A 16-bit word: `PC`, a processor bus address, `vram_addr`. -/
abbrev Word := BitVec 16

end Sys2Proof
end

