-- ==== Sys2Proof/Syntax.lean ====
section
/-! DEFINITION. Instructions as data: the mnemonics and addressing modes of the instruction table
(spec/30_encoding.md rules R93 to R111), operands with their decoded fields, and `Instr`. -/

namespace Sys2Proof

/-- The 56 mnemonics of spec/30_encoding.md rule R110 and `ILL` (rule R111). -/
inductive Mnemonic where
  | LDA | LDX | LDY | STA | STX | STY
  | TAX | TAY | TXA | TYA | TSX | TXS | PHA | PHP | PLA | PLP
  | AND | ORA | EOR | BIT
  | ADC | SBC | CMP | CPX | CPY
  | INC | DEC | INX | INY | DEX | DEY
  | ASL | LSR | ROL | ROR
  | JMP | JSR | RTS
  | BCC | BCS | BEQ | BNE | BMI | BPL | BVC | BVS
  | CLC | SEC | CLI | SEI | CLV | CLD | SED
  | BRK | RTI | NOP | ILL
  deriving DecidableEq, Repr

/-- The thirteen addressing modes (30_encoding.md section 3). -/
inductive Mode where
  | implicit | accumulator | immediate
  | zeroPage | zeroPageX | zeroPageY
  | absolute | absoluteX | absoluteY
  | indirect | indirectX | indirectY | relative
  deriving DecidableEq, Repr

/-- One entry of the instruction table (30_encoding.md rule R109). -/
structure TableEntry where
  opcode : Byte
  mnemonic : Mnemonic
  mode : Mode
  baseCycles : Nat
  pageCrossPenalty : Bool
  branchPenalty : Bool
  deriving DecidableEq, Repr

/-- An operand of an instruction that has more than one addressing mode, with the fields of its
operand bytes (30_encoding.md section 1). A `Word` is the two operand bytes, low byte first. -/
inductive Operand where
  | accumulator
  | immediate (v : Byte)
  | zeroPage (d8 : Byte)
  | zeroPageX (d8 : Byte)
  | zeroPageY (d8 : Byte)
  | absolute (w : Word)
  | absoluteX (w : Word)
  | absoluteY (w : Word)
  | indirect (w : Word)
  | indirectX (d8 : Byte)
  | indirectY (d8 : Byte)
  deriving DecidableEq, Repr

/-- The addressing mode an operand is written in. -/
def Operand.mode : Operand → Mode
  | .accumulator => .accumulator
  | .immediate _ => .immediate
  | .zeroPage _ => .zeroPage
  | .zeroPageX _ => .zeroPageX
  | .zeroPageY _ => .zeroPageY
  | .absolute _ => .absolute
  | .absoluteX _ => .absoluteX
  | .absoluteY _ => .absoluteY
  | .indirect _ => .indirect
  | .indirectX _ => .indirectX
  | .indirectY _ => .indirectY

/-- The instructions. Each of the 256 rows of the opcode table is one constructor at one addressing
mode; the 105 illegal rows are `ill` at their opcode byte (log entry 1). -/
inductive Instr where
  -- 40_load_store.md
  | lda (o : Operand) | ldx (o : Operand) | ldy (o : Operand)
  | sta (o : Operand) | stx (o : Operand) | sty (o : Operand)
  -- 41_transfer_stack.md
  | tax | tay | txa | tya | tsx | txs
  | pha | php | pla | plp
  -- 42_logic.md
  | and (o : Operand) | ora (o : Operand) | eor (o : Operand) | bit (o : Operand)
  -- 43_arithmetic.md
  | adc (o : Operand) | sbc (o : Operand)
  | cmp (o : Operand) | cpx (o : Operand) | cpy (o : Operand)
  -- 44_incdec.md
  | inc (o : Operand) | dec (o : Operand) | inx | iny | dex | dey
  -- 45_shift.md
  | asl (o : Operand) | lsr (o : Operand) | rol (o : Operand) | ror (o : Operand)
  -- 46_jump_call.md
  | jmp (o : Operand) | jsr (target : Word) | rts
  -- 47_branch.md
  | bcc (d8 : Byte) | bcs (d8 : Byte) | beq (d8 : Byte) | bne (d8 : Byte)
  | bmi (d8 : Byte) | bpl (d8 : Byte) | bvc (d8 : Byte) | bvs (d8 : Byte)
  -- 48_flags.md
  | clc | sec | cli | sei | clv | cld | sed
  -- 49_system.md
  | brk | rti | nop
  | ill (op : Byte)
  deriving DecidableEq, Repr

/-- The mnemonic of an instruction. -/
def Instr.mnemonic : Instr → Mnemonic
  | .lda _ => .LDA | .ldx _ => .LDX | .ldy _ => .LDY
  | .sta _ => .STA | .stx _ => .STX | .sty _ => .STY
  | .tax => .TAX | .tay => .TAY | .txa => .TXA | .tya => .TYA | .tsx => .TSX | .txs => .TXS
  | .pha => .PHA | .php => .PHP | .pla => .PLA | .plp => .PLP
  | .and _ => .AND | .ora _ => .ORA | .eor _ => .EOR | .bit _ => .BIT
  | .adc _ => .ADC | .sbc _ => .SBC | .cmp _ => .CMP | .cpx _ => .CPX | .cpy _ => .CPY
  | .inc _ => .INC | .dec _ => .DEC | .inx => .INX | .iny => .INY | .dex => .DEX | .dey => .DEY
  | .asl _ => .ASL | .lsr _ => .LSR | .rol _ => .ROL | .ror _ => .ROR
  | .jmp _ => .JMP | .jsr _ => .JSR | .rts => .RTS
  | .bcc _ => .BCC | .bcs _ => .BCS | .beq _ => .BEQ | .bne _ => .BNE
  | .bmi _ => .BMI | .bpl _ => .BPL | .bvc _ => .BVC | .bvs _ => .BVS
  | .clc => .CLC | .sec => .SEC | .cli => .CLI | .sei => .SEI | .clv => .CLV | .cld => .CLD
  | .sed => .SED
  | .brk => .BRK | .rti => .RTI | .nop => .NOP | .ill _ => .ILL

/-- The addressing mode of an instruction. -/
def Instr.mode : Instr → Mode
  | .lda o | .ldx o | .ldy o | .sta o | .stx o | .sty o => o.mode
  | .tax | .tay | .txa | .tya | .tsx | .txs | .pha | .php | .pla | .plp => .implicit
  | .and o | .ora o | .eor o | .bit o => o.mode
  | .adc o | .sbc o | .cmp o | .cpx o | .cpy o => o.mode
  | .inc o | .dec o => o.mode
  | .inx | .iny | .dex | .dey => .implicit
  | .asl o | .lsr o | .rol o | .ror o => o.mode
  | .jmp o => o.mode
  | .jsr _ => .absolute
  | .rts => .implicit
  | .bcc _ | .bcs _ | .beq _ | .bne _ | .bmi _ | .bpl _ | .bvc _ | .bvs _ => .relative
  | .clc | .sec | .cli | .sei | .clv | .cld | .sed => .implicit
  | .brk | .rti | .nop | .ill _ => .implicit

end Sys2Proof
end

