-- ==== Sys2Proof/Decode.lean ====
section
/-! DEFINITION. The byte-order helpers, the instruction table, the decoder (total, rejecting by name)
and, from the same table, the encoder (spec/30_encoding.md rules R90 to R111, R114). -/

namespace Sys2Proof

/-- `Hi(w)`, which is also `Page(w)` (00_scope.md section 7). -/
def hiByte (w : Word) : Byte := w.extractLsb' 8 8

/-- `Lo(w)` (00_scope.md section 7). -/
def loByte (w : Word) : Byte := w.extractLsb' 0 8

/-- `Word(hi, lo)` (00_scope.md section 7). -/
def mkWord (hi lo : Byte) : Word := hi ++ lo

/-- `zext_16(b)` (00_scope.md section 7). -/
def zext16 (b : Byte) : Word := b.setWidth 16

/-- `sext_16(b)` (00_scope.md section 7). -/
def sext16 (b : Byte) : Word := b.signExtend 16

/-- Whether two addresses are on different pages (30_encoding.md rule R106). -/
def pageCrossed (ea base : Word) : Bool := hiByte ea != hiByte base

/-! ## The instruction table (rules R108 to R111) -/

/-- An entry with neither penalty. -/
def plain (op : Byte) (mn : Mnemonic) (mode : Mode) (cycles : Nat) : TableEntry :=
  ⟨op, mn, mode, cycles, false, false⟩

/-- An entry with `page_cross_penalty` (rule R108). -/
def crossing (op : Byte) (mn : Mnemonic) (mode : Mode) (cycles : Nat) : TableEntry :=
  ⟨op, mn, mode, cycles, true, false⟩

/-- An entry with `branch_penalty` (rule R108). -/
def branch (op : Byte) (mn : Mnemonic) (cycles : Nat) : TableEntry :=
  ⟨op, mn, .relative, cycles, false, true⟩

/-- The entry of an illegal opcode (rule R111). -/
def illegal (op : Byte) : TableEntry := ⟨op, .ILL, .implicit, 0, false, false⟩

/-- Row `0x` of the matrix of 30_encoding.md rule R110. -/
def tableRow0 : List TableEntry :=
  [plain 0x00 .BRK .implicit 7, plain 0x01 .ORA .indirectX 6,
   illegal 0x02, illegal 0x03,
   illegal 0x04, plain 0x05 .ORA .zeroPage 3,
   plain 0x06 .ASL .zeroPage 5, illegal 0x07,
   plain 0x08 .PHP .implicit 3, plain 0x09 .ORA .immediate 2,
   plain 0x0A .ASL .accumulator 2, illegal 0x0B,
   illegal 0x0C, plain 0x0D .ORA .absolute 4,
   plain 0x0E .ASL .absolute 6, illegal 0x0F]

/-- Row `1x` of the matrix of 30_encoding.md rule R110. -/
def tableRow1 : List TableEntry :=
  [branch 0x10 .BPL 2, crossing 0x11 .ORA .indirectY 5,
   illegal 0x12, illegal 0x13,
   illegal 0x14, plain 0x15 .ORA .zeroPageX 4,
   plain 0x16 .ASL .zeroPageX 6, illegal 0x17,
   plain 0x18 .CLC .implicit 2, crossing 0x19 .ORA .absoluteY 4,
   illegal 0x1A, illegal 0x1B,
   illegal 0x1C, crossing 0x1D .ORA .absoluteX 4,
   plain 0x1E .ASL .absoluteX 7, illegal 0x1F]

/-- Row `2x` of the matrix of 30_encoding.md rule R110. -/
def tableRow2 : List TableEntry :=
  [plain 0x20 .JSR .absolute 6, plain 0x21 .AND .indirectX 6,
   illegal 0x22, illegal 0x23,
   plain 0x24 .BIT .zeroPage 3, plain 0x25 .AND .zeroPage 3,
   plain 0x26 .ROL .zeroPage 5, illegal 0x27,
   plain 0x28 .PLP .implicit 4, plain 0x29 .AND .immediate 2,
   plain 0x2A .ROL .accumulator 2, illegal 0x2B,
   plain 0x2C .BIT .absolute 4, plain 0x2D .AND .absolute 4,
   plain 0x2E .ROL .absolute 6, illegal 0x2F]

/-- Row `3x` of the matrix of 30_encoding.md rule R110. -/
def tableRow3 : List TableEntry :=
  [branch 0x30 .BMI 2, crossing 0x31 .AND .indirectY 5,
   illegal 0x32, illegal 0x33,
   illegal 0x34, plain 0x35 .AND .zeroPageX 4,
   plain 0x36 .ROL .zeroPageX 6, illegal 0x37,
   plain 0x38 .SEC .implicit 2, crossing 0x39 .AND .absoluteY 4,
   illegal 0x3A, illegal 0x3B,
   illegal 0x3C, crossing 0x3D .AND .absoluteX 4,
   plain 0x3E .ROL .absoluteX 7, illegal 0x3F]

/-- Row `4x` of the matrix of 30_encoding.md rule R110. -/
def tableRow4 : List TableEntry :=
  [plain 0x40 .RTI .implicit 6, plain 0x41 .EOR .indirectX 6,
   illegal 0x42, illegal 0x43,
   illegal 0x44, plain 0x45 .EOR .zeroPage 3,
   plain 0x46 .LSR .zeroPage 5, illegal 0x47,
   plain 0x48 .PHA .implicit 3, plain 0x49 .EOR .immediate 2,
   plain 0x4A .LSR .accumulator 2, illegal 0x4B,
   plain 0x4C .JMP .absolute 3, plain 0x4D .EOR .absolute 4,
   plain 0x4E .LSR .absolute 6, illegal 0x4F]

/-- Row `5x` of the matrix of 30_encoding.md rule R110. -/
def tableRow5 : List TableEntry :=
  [branch 0x50 .BVC 2, crossing 0x51 .EOR .indirectY 5,
   illegal 0x52, illegal 0x53,
   illegal 0x54, plain 0x55 .EOR .zeroPageX 4,
   plain 0x56 .LSR .zeroPageX 6, illegal 0x57,
   plain 0x58 .CLI .implicit 2, crossing 0x59 .EOR .absoluteY 4,
   illegal 0x5A, illegal 0x5B,
   illegal 0x5C, crossing 0x5D .EOR .absoluteX 4,
   plain 0x5E .LSR .absoluteX 7, illegal 0x5F]

/-- Row `6x` of the matrix of 30_encoding.md rule R110. -/
def tableRow6 : List TableEntry :=
  [plain 0x60 .RTS .implicit 6, plain 0x61 .ADC .indirectX 6,
   illegal 0x62, illegal 0x63,
   illegal 0x64, plain 0x65 .ADC .zeroPage 3,
   plain 0x66 .ROR .zeroPage 5, illegal 0x67,
   plain 0x68 .PLA .implicit 4, plain 0x69 .ADC .immediate 2,
   plain 0x6A .ROR .accumulator 2, illegal 0x6B,
   plain 0x6C .JMP .indirect 5, plain 0x6D .ADC .absolute 4,
   plain 0x6E .ROR .absolute 6, illegal 0x6F]

/-- Row `7x` of the matrix of 30_encoding.md rule R110. -/
def tableRow7 : List TableEntry :=
  [branch 0x70 .BVS 2, crossing 0x71 .ADC .indirectY 5,
   illegal 0x72, illegal 0x73,
   illegal 0x74, plain 0x75 .ADC .zeroPageX 4,
   plain 0x76 .ROR .zeroPageX 6, illegal 0x77,
   plain 0x78 .SEI .implicit 2, crossing 0x79 .ADC .absoluteY 4,
   illegal 0x7A, illegal 0x7B,
   illegal 0x7C, crossing 0x7D .ADC .absoluteX 4,
   plain 0x7E .ROR .absoluteX 7, illegal 0x7F]

/-- Row `8x` of the matrix of 30_encoding.md rule R110. -/
def tableRow8 : List TableEntry :=
  [illegal 0x80, plain 0x81 .STA .indirectX 6,
   illegal 0x82, illegal 0x83,
   plain 0x84 .STY .zeroPage 3, plain 0x85 .STA .zeroPage 3,
   plain 0x86 .STX .zeroPage 3, illegal 0x87,
   plain 0x88 .DEY .implicit 2, illegal 0x89,
   plain 0x8A .TXA .implicit 2, illegal 0x8B,
   plain 0x8C .STY .absolute 4, plain 0x8D .STA .absolute 4,
   plain 0x8E .STX .absolute 4, illegal 0x8F]

/-- Row `9x` of the matrix of 30_encoding.md rule R110. -/
def tableRow9 : List TableEntry :=
  [branch 0x90 .BCC 2, plain 0x91 .STA .indirectY 6,
   illegal 0x92, illegal 0x93,
   plain 0x94 .STY .zeroPageX 4, plain 0x95 .STA .zeroPageX 4,
   plain 0x96 .STX .zeroPageY 4, illegal 0x97,
   plain 0x98 .TYA .implicit 2, plain 0x99 .STA .absoluteY 5,
   plain 0x9A .TXS .implicit 2, illegal 0x9B,
   illegal 0x9C, plain 0x9D .STA .absoluteX 5,
   illegal 0x9E, illegal 0x9F]

/-- Row `Ax` of the matrix of 30_encoding.md rule R110. -/
def tableRowA : List TableEntry :=
  [plain 0xA0 .LDY .immediate 2, plain 0xA1 .LDA .indirectX 6,
   plain 0xA2 .LDX .immediate 2, illegal 0xA3,
   plain 0xA4 .LDY .zeroPage 3, plain 0xA5 .LDA .zeroPage 3,
   plain 0xA6 .LDX .zeroPage 3, illegal 0xA7,
   plain 0xA8 .TAY .implicit 2, plain 0xA9 .LDA .immediate 2,
   plain 0xAA .TAX .implicit 2, illegal 0xAB,
   plain 0xAC .LDY .absolute 4, plain 0xAD .LDA .absolute 4,
   plain 0xAE .LDX .absolute 4, illegal 0xAF]

/-- Row `Bx` of the matrix of 30_encoding.md rule R110. -/
def tableRowB : List TableEntry :=
  [branch 0xB0 .BCS 2, crossing 0xB1 .LDA .indirectY 5,
   illegal 0xB2, illegal 0xB3,
   plain 0xB4 .LDY .zeroPageX 4, plain 0xB5 .LDA .zeroPageX 4,
   plain 0xB6 .LDX .zeroPageY 4, illegal 0xB7,
   plain 0xB8 .CLV .implicit 2, crossing 0xB9 .LDA .absoluteY 4,
   plain 0xBA .TSX .implicit 2, illegal 0xBB,
   crossing 0xBC .LDY .absoluteX 4, crossing 0xBD .LDA .absoluteX 4,
   crossing 0xBE .LDX .absoluteY 4, illegal 0xBF]

/-- Row `Cx` of the matrix of 30_encoding.md rule R110. -/
def tableRowC : List TableEntry :=
  [plain 0xC0 .CPY .immediate 2, plain 0xC1 .CMP .indirectX 6,
   illegal 0xC2, illegal 0xC3,
   plain 0xC4 .CPY .zeroPage 3, plain 0xC5 .CMP .zeroPage 3,
   plain 0xC6 .DEC .zeroPage 5, illegal 0xC7,
   plain 0xC8 .INY .implicit 2, plain 0xC9 .CMP .immediate 2,
   plain 0xCA .DEX .implicit 2, illegal 0xCB,
   plain 0xCC .CPY .absolute 4, plain 0xCD .CMP .absolute 4,
   plain 0xCE .DEC .absolute 6, illegal 0xCF]

/-- Row `Dx` of the matrix of 30_encoding.md rule R110. -/
def tableRowD : List TableEntry :=
  [branch 0xD0 .BNE 2, crossing 0xD1 .CMP .indirectY 5,
   illegal 0xD2, illegal 0xD3,
   illegal 0xD4, plain 0xD5 .CMP .zeroPageX 4,
   plain 0xD6 .DEC .zeroPageX 6, illegal 0xD7,
   plain 0xD8 .CLD .implicit 2, crossing 0xD9 .CMP .absoluteY 4,
   illegal 0xDA, illegal 0xDB,
   illegal 0xDC, crossing 0xDD .CMP .absoluteX 4,
   plain 0xDE .DEC .absoluteX 7, illegal 0xDF]

/-- Row `Ex` of the matrix of 30_encoding.md rule R110. -/
def tableRowE : List TableEntry :=
  [plain 0xE0 .CPX .immediate 2, plain 0xE1 .SBC .indirectX 6,
   illegal 0xE2, illegal 0xE3,
   plain 0xE4 .CPX .zeroPage 3, plain 0xE5 .SBC .zeroPage 3,
   plain 0xE6 .INC .zeroPage 5, illegal 0xE7,
   plain 0xE8 .INX .implicit 2, plain 0xE9 .SBC .immediate 2,
   plain 0xEA .NOP .implicit 2, illegal 0xEB,
   plain 0xEC .CPX .absolute 4, plain 0xED .SBC .absolute 4,
   plain 0xEE .INC .absolute 6, illegal 0xEF]

/-- Row `Fx` of the matrix of 30_encoding.md rule R110. -/
def tableRowF : List TableEntry :=
  [branch 0xF0 .BEQ 2, crossing 0xF1 .SBC .indirectY 5,
   illegal 0xF2, illegal 0xF3,
   illegal 0xF4, plain 0xF5 .SBC .zeroPageX 4,
   plain 0xF6 .INC .zeroPageX 6, illegal 0xF7,
   plain 0xF8 .SED .implicit 2, crossing 0xF9 .SBC .absoluteY 4,
   illegal 0xFA, illegal 0xFB,
   illegal 0xFC, crossing 0xFD .SBC .absoluteX 4,
   plain 0xFE .INC .absoluteX 7, illegal 0xFF]

/-- `TABLE` (rule R110): 256 entries in opcode order. -/
def instructionTable : List TableEntry :=
  tableRow0 ++ tableRow1 ++ tableRow2 ++ tableRow3 ++ tableRow4 ++ tableRow5 ++ tableRow6 ++
  tableRow7 ++ tableRow8 ++ tableRow9 ++ tableRowA ++ tableRowB ++ tableRowC ++ tableRowD ++
  tableRowE ++ tableRowF

/-- `TABLE[op]`. The table has 256 entries, so the default is never used (Laws/Decode.lean). -/
def tableEntry (op : Byte) : TableEntry := instructionTable.getD op.toNat (illegal op)

/-- `disassemble(opcode)` (rule R114). -/
def disassemble (op : Byte) : Mnemonic × Mode :=
  ((tableEntry op).mnemonic, (tableEntry op).mode)

/-! ## Formats and operands (section 1, rule R92) -/

/-- The three formats of 30_encoding.md section 1: `OP`, `OP_B`, `OP_W`. -/
inductive Format where
  | op | opB | opW
  deriving DecidableEq, Repr

/-- The format of each addressing mode (rule R92). -/
def Mode.format : Mode → Format
  | .implicit | .accumulator => .op
  | .immediate | .zeroPage | .zeroPageX | .zeroPageY | .indirectX | .indirectY | .relative => .opB
  | .absolute | .absoluteX | .absoluteY | .indirect => .opW

/-- Instruction length in bytes (rule R92). -/
def Mode.length (m : Mode) : Nat :=
  match m.format with
  | .op => 1
  | .opB => 2
  | .opW => 3

/-- The operand written in a mode with operand bytes `lo` and `hi`. The two modes that write no
operand of this type never reach it from a table entry. -/
def operandOf (m : Mode) (lo hi : Byte) : Operand :=
  match m with
  | .accumulator | .implicit | .relative => .accumulator
  | .immediate => .immediate lo
  | .zeroPage => .zeroPage lo
  | .zeroPageX => .zeroPageX lo
  | .zeroPageY => .zeroPageY lo
  | .absolute => .absolute (mkWord hi lo)
  | .absoluteX => .absoluteX (mkWord hi lo)
  | .absoluteY => .absoluteY (mkWord hi lo)
  | .indirect => .indirect (mkWord hi lo)
  | .indirectX => .indirectX lo
  | .indirectY => .indirectY lo

/-- The instruction of a table entry with operand bytes `lo` and `hi` (rule R90). -/
def instrOf (e : TableEntry) (lo hi : Byte) : Instr :=
  match e.mnemonic with
  | .LDA => .lda (operandOf e.mode lo hi)
  | .LDX => .ldx (operandOf e.mode lo hi)
  | .LDY => .ldy (operandOf e.mode lo hi)
  | .STA => .sta (operandOf e.mode lo hi)
  | .STX => .stx (operandOf e.mode lo hi)
  | .STY => .sty (operandOf e.mode lo hi)
  | .TAX => .tax
  | .TAY => .tay
  | .TXA => .txa
  | .TYA => .tya
  | .TSX => .tsx
  | .TXS => .txs
  | .PHA => .pha
  | .PHP => .php
  | .PLA => .pla
  | .PLP => .plp
  | .AND => .and (operandOf e.mode lo hi)
  | .ORA => .ora (operandOf e.mode lo hi)
  | .EOR => .eor (operandOf e.mode lo hi)
  | .BIT => .bit (operandOf e.mode lo hi)
  | .ADC => .adc (operandOf e.mode lo hi)
  | .SBC => .sbc (operandOf e.mode lo hi)
  | .CMP => .cmp (operandOf e.mode lo hi)
  | .CPX => .cpx (operandOf e.mode lo hi)
  | .CPY => .cpy (operandOf e.mode lo hi)
  | .INC => .inc (operandOf e.mode lo hi)
  | .DEC => .dec (operandOf e.mode lo hi)
  | .INX => .inx
  | .INY => .iny
  | .DEX => .dex
  | .DEY => .dey
  | .ASL => .asl (operandOf e.mode lo hi)
  | .LSR => .lsr (operandOf e.mode lo hi)
  | .ROL => .rol (operandOf e.mode lo hi)
  | .ROR => .ror (operandOf e.mode lo hi)
  | .JMP => .jmp (operandOf e.mode lo hi)
  | .JSR => .jsr (mkWord hi lo)
  | .RTS => .rts
  | .BCC => .bcc lo
  | .BCS => .bcs lo
  | .BEQ => .beq lo
  | .BNE => .bne lo
  | .BMI => .bmi lo
  | .BPL => .bpl lo
  | .BVC => .bvc lo
  | .BVS => .bvs lo
  | .CLC => .clc
  | .SEC => .sec
  | .CLI => .cli
  | .SEI => .sei
  | .CLV => .clv
  | .CLD => .cld
  | .SED => .sed
  | .BRK => .brk
  | .RTI => .rti
  | .NOP => .nop
  | .ILL => .ill e.opcode

/-- The instruction whose bytes are `bs`; bytes past its length are not looked at, and missing ones
count as zero (`decode` refuses those). -/
def instrOfBytes (bs : List Byte) : Instr :=
  instrOf (tableEntry (bs.getD 0 0)) (bs.getD 1 0) (bs.getD 2 0)

/-! ## Decoding -/

/-- Why a byte string holds no instruction. Every opcode byte decodes (rule R111: an illegal one to
`ill`), so bytes are missing. -/
inductive DecodeError where
  /-- There is no byte at all. -/
  | empty
  /-- The operand bytes of this opcode are missing. -/
  | truncated (op : Byte)
  deriving DecidableEq, Repr

/-- Decode the instruction at the head of a byte string, with the bytes after it. -/
def decode : List Byte → Except DecodeError (Instr × List Byte)
  | [] => .error .empty
  | op :: rest =>
    match (tableEntry op).mode.format, rest with
    | .op, rest => .ok (instrOf (tableEntry op) 0 0, rest)
    | .opB, lo :: rest => .ok (instrOf (tableEntry op) lo 0, rest)
    | .opB, [] => .error (.truncated op)
    | .opW, lo :: hi :: rest => .ok (instrOf (tableEntry op) lo hi, rest)
    | .opW, [_] | .opW, [] => .error (.truncated op)

/-- The three bytes whose bits are `w`, bit 0 the least significant bit of the first byte, with every
bit from `nbits` up zero. -/
def bytesOfTableWord (nbits w : Nat) : List Byte :=
  let v := w % 2 ^ nbits
  [BitVec.ofNat 8 v, BitVec.ofNat 8 (v / 256), BitVec.ofNat 8 (v / 65536)]

/-- What the decoder reads from an instruction whose bits are `w` in opcode_table.json's numbering. -/
def decodeTableWord (nbits w : Nat) : Option Instr :=
  match decode (bytesOfTableWord nbits w) with
  | .ok (i, _) => some i
  | .error _ => none

/-! ## Encoding -/

/-- The row of a mnemonic in an addressing mode. -/
def rowOf (mn : Mnemonic) (mode : Mode) : Option TableEntry :=
  instructionTable.find? fun e => e.mnemonic = mn && e.mode = mode

/-- The table's entry for an instruction: the row with its mnemonic and mode, and for `ill` its own
row. -/
def Instr.entry (i : Instr) : Option TableEntry :=
  match i with
  | .ill op => if (tableEntry op).mnemonic = .ILL then some (tableEntry op) else none
  | i => rowOf i.mnemonic i.mode

/-- The operand bytes of an operand (section 1; 20_memory.md rule R59: low byte first). -/
def Operand.bytes : Operand → List Byte
  | .accumulator => []
  | .immediate v => [v]
  | .zeroPage d8 | .zeroPageX d8 | .zeroPageY d8 | .indirectX d8 | .indirectY d8 => [d8]
  | .absolute w | .absoluteX w | .absoluteY w | .indirect w => [loByte w, hiByte w]

/-- The operand bytes of an instruction. -/
def Instr.operandBytes : Instr → List Byte
  | .lda o | .ldx o | .ldy o | .sta o | .stx o | .sty o | .and o | .ora o | .eor o | .bit o
  | .adc o | .sbc o | .cmp o | .cpx o | .cpy o | .inc o | .dec o | .asl o | .lsr o | .rol o
  | .ror o | .jmp o => o.bytes
  | .jsr w => [loByte w, hiByte w]
  | .bcc d8 | .bcs d8 | .beq d8 | .bmi d8 | .bne d8 | .bpl d8 | .bvc d8 | .bvs d8 => [d8]
  | .tax | .tay | .txa | .tya | .tsx | .txs | .pha | .php | .pla | .plp | .inx | .iny | .dex
  | .dey | .rts | .clc | .sec | .cli | .sei | .clv | .cld | .sed | .brk | .rti | .nop => []
  | .ill _ => []

/-- The bytes of a well-formed instruction: its row's opcode, then its operand bytes. A term the
table has no row for has no bytes. -/
def encode (i : Instr) : List Byte :=
  match i.entry with
  | some e => e.opcode :: i.operandBytes
  | none => []

end Sys2Proof
end

