-- ==== Sys2Proof/Config.lean ====
section
/-! DEFINITION. What is fixed for one machine: the parameters of spec/00_scope.md rule R2, the shape
of the installed cartridge (10_state.md rule R29) and the OPEN parameters, which are free values. -/

namespace Sys2Proof

/-- Byte storage: address and byte pairs in one canonical form, addresses strictly rising and no
listed byte equal to `Config.unlistedByte`. -/
abbrev Memory := List Host.Cell

/-- The pixel buffer `Composite` returns (10_state.md rule R39). PRESUMED: a list of bytes; the spec
gives neither dimensions nor a pixel format, and nothing reads it (log entry 6). -/
abbrev PixelBuffer := List Byte

/-- One immutable byte block of the cartridge (10_state.md rule R29): its length and its bytes. -/
structure Rom where
  len : Nat
  bytes : Memory
  deriving DecidableEq, Repr

/-- What `installRoms` hands to the machine: `PRG` and `CHR` (20_memory.md rule R57). -/
structure Cartridge where
  prg : Rom
  chr : Rom
  deriving DecidableEq, Repr

namespace Config

/-- What an unlisted byte of any storage reads as. DESIGN CHOICE (log entry 7): the contents at
construction are OPEN in the spec (10_state.md rule R41, decision D16). -/
def unlistedByte : Byte := 0

/-- `RAM_SIZE` (00_scope.md rule R2). -/
abbrev ramSize : Nat := 2048
/-- `OAM_SIZE` (00_scope.md rule R2). -/
abbrev oamSize : Nat := 256
/-- `VRAM_SIZE` (00_scope.md rule R2). -/
abbrev vramSize : Nat := 8192
/-- The program bank size (20_memory.md rule R57); one or two banks are legal. -/
abbrev prgBank : Nat := 16384
/-- The graphics bank size (20_memory.md rule R57). -/
abbrev chrBank : Nat := 8192
/-- Dots per scanline (00_scope.md rule R2). -/
abbrev dotsPerScanline : Nat := 341
/-- Scanlines per frame (00_scope.md rule R2). -/
abbrev scanlinesPerFrame : Nat := 262
/-- The cost of an interrupt entry (60_exceptions.md rule R256). -/
abbrev entryCycles : Nat := 7

/-- `OpenBus` (00_scope.md rule R2, decision D4): the byte a read returns where no store drives the
bus. A free value: nothing is known of it, and each draw (the first argument) is a fresh one
(log entry 4). -/
opaque openBus : Nat → Word → Byte

/-- `Sprite0Oracle` (60_exceptions.md rule R277, decision D24): whether the oracle sets `sprite0` at
its n-th consultation. A free value (log entry 5). -/
opaque sprite0Oracle : Nat → Bool

/-- `Composite` (60_exceptions.md rule R296): an uninterpreted function of `ctrl`, `mask`,
`scroll_x`, `scroll_y`, `OAM`, `VRAM` and `CHR` (log entry 6). -/
opaque composite : Byte → Byte → Byte → Byte → Memory → Memory → Rom → PixelBuffer

end Config

end Sys2Proof
end

