-- ==== Sys2Proof/Machine/State.lean ====
section
/-! DEFINITION. The state of the machine as plain data (spec/10_state.md), why a step can stop, what
the host can do at a boundary, and the states at construction and after the first Reset. -/

namespace Sys2Proof.Machine

/-- Why the machine stops with a fault. -/
inductive Fault where
  /-- Raised by every step tried on a machine that `UnknownOpcode(op)` has halted
  (60_exceptions.md rule R264). Safe: the spec has no later step either (log entry 2). -/
  | unknownOpcode (op : Byte)
  deriving DecidableEq, Repr

/-- Why a step has no meaning. -/
inductive Refusal where
  /-- Raised by an arm of `exec` whose instruction has no meaning yet. Safe. -/
  | notModelled (mnemonic : String)
  /-- Raised by `exec` on a term that no row of the instruction table has (an ill-formed term; no
  bytes decode to one). Safe (log entry 15). -/
  | noSuchForm
  /-- Raised by `step` when no cartridge is installed (20_memory.md rule R57, 60_exceptions.md rule
  R260). Safe (log entry 12). -/
  | noCartridge
  /-- Raised by `step` before the first Reset (70_reset_and_hazards.md rules R320, R322). Safe
  (log entry 12). -/
  | notReset
  deriving DecidableEq, Repr

/-- The four interrupt kinds (60_exceptions.md rule R250). -/
inductive InterruptKind where
  | reset | nonMaskable | maskable | softwareBreak
  deriving DecidableEq, Repr

/-- The state-changing host actions of 60_exceptions.md rule R262; `irq_request` is a field of
`Boundary`. -/
inductive HostAction where
  | installRoms (programData graphicsData : List Byte)
  | reset
  | nmiRequest
  | frameRead
  deriving DecidableEq, Repr

/-- What the host does at one boundary between two steps: actions in order, then the bit
`irq_request` for the step that follows (60_exceptions.md rules R259, R262). -/
structure Boundary where
  actions : List HostAction
  irqRequest : Bool
  deriving DecidableEq, Repr

/-- The output of a step (10_state.md rule R40); `opcode` is absent for an interrupt entry. -/
structure StepOutput where
  cycles : Nat
  opcode : Option Byte
  deriving DecidableEq, Repr

/-- The video-timing unit (10_state.md rules R30 to R39). -/
structure Vtu where
  scanline : Nat
  dot : Nat
  vblank : Bool
  sprite0 : Bool
  ctrl : Byte
  mask : Byte
  writeLatch : Bool
  vramAddr : Word
  scrollX : Byte
  scrollY : Byte
  oamAddr : Byte
  oam : Memory
  vram : Memory
  frameReady : Bool
  frameBuffer : PixelBuffer
  /-- The model's own: how often the oracle was consulted (log entry 5). -/
  oracleDraws : Nat
  deriving DecidableEq, Repr

/-- The whole state (10_state.md section 1). -/
structure State where
  a : Byte
  x : Byte
  y : Byte
  sp : Byte
  pc : Word
  p : Byte
  nmiPending : Bool
  halted : Bool
  faultOpcode : Byte
  ram : Memory
  cart : Option Cartridge
  vtu : Vtu
  /-- The model's own: how many `OpenBus` draws were made (log entry 4). -/
  busDraws : Nat
  /-- One Reset has been applied since construction (70_reset_and_hazards.md rule R322). -/
  resetDone : Bool
  /-- The model's own: what the host does at the coming boundaries; none listed means nothing
  (log entry 3). -/
  inputs : List Boundary
  /-- The output of the latest step or Reset (10_state.md rule R40). -/
  out : StepOutput
  deriving DecidableEq, Repr

/-- The video-timing unit at construction (70_reset_and_hazards.md rule R320). The contents of `OAM`
and `VRAM` (log entry 7) and `frame_buffer` (log entry 9) are the model's choice. -/
def Vtu.construct : Vtu where
  scanline := 0
  dot := 0
  vblank := false
  sprite0 := false
  ctrl := 0
  mask := 0
  writeLatch := false
  vramAddr := 0
  scrollX := 0
  scrollY := 0
  oamAddr := 0
  oam := []
  vram := []
  frameReady := false
  frameBuffer := []
  oracleDraws := 0

/-- The machine at construction (70_reset_and_hazards.md rule R320): it cannot step yet. The contents
of `RAM` (log entry 7) and `fault_opcode` (log entry 9) are the model's choice. -/
def State.construct : State where
  a := 0
  x := 0
  y := 0
  sp := 0xFE
  pc := 0
  p := 0x20
  nmiPending := false
  halted := false
  faultOpcode := 0
  ram := []
  cart := none
  vtu := Vtu.construct
  busDraws := 0
  resetDone := false
  inputs := []
  out := ⟨0, none⟩

/-- The cartridge of `State.reset`: the larger legal `PRG` and one bank of `CHR`, nothing in them.
DESIGN CHOICE (log entry 8): the installed blocks are OPEN in the spec. -/
def blankCartridge : Cartridge := ⟨⟨32768, []⟩, ⟨8192, []⟩⟩

/-- The machine right after the first Reset (70_reset_and_hazards.md rules R321, R322): construction,
then `installRoms` of the blank cartridge, then `Reset`, which sets `P.I`, loads `PC` from the Reset
vector (0x0000 in a blank cartridge, log entry 8) and outputs `(7, none)`. -/
def State.reset : State :=
  { State.construct with
    pc := 0x0000
    p := 0x24
    cart := some blankCartridge
    resetDone := true
    out := ⟨7, none⟩ }

end Sys2Proof.Machine
end

