-- ==== Sys2Proof/Machine/Memory.lean ====
section
/-! DEFINITION. Byte storage: read, write, building from a byte block, and the canonical form that
every operation keeps (Laws/Memory.lean). -/

namespace Sys2Proof

/-- The byte at an index; an unlisted one reads as `Config.unlistedByte`. -/
def Memory.read : Memory → Nat → Byte
  | [], _ => Config.unlistedByte
  | (k, v) :: rest, a => if k = a then v else Memory.read rest a

/-- Drop whatever is listed at an index. -/
def Memory.erase : Memory → Nat → Memory
  | [], _ => []
  | (k, v) :: rest, a => if k = a then Memory.erase rest a else (k, v) :: Memory.erase rest a

/-- List a byte at an index that is not listed, keeping the order. -/
def Memory.insert : Memory → Nat → Byte → Memory
  | [], a, v => [(a, v)]
  | (k, w) :: rest, a, v =>
    if a < k then (a, v) :: (k, w) :: rest else (k, w) :: Memory.insert rest a v

/-- Write a byte. Writing what an unlisted index reads as only drops the entry. -/
def Memory.write (m : Memory) (a : Nat) (v : Byte) : Memory :=
  if v = Config.unlistedByte then Memory.erase m a else Memory.insert (Memory.erase m a) a v

/-- Canonical from index `lo` on: indexes rising and below `size`, no byte an unlisted one reads as. -/
def Memory.wfFrom (lo size : Nat) : Memory → Bool
  | [] => true
  | (k, v) :: rest =>
    decide (lo ≤ k) && decide (k < size) && v != Config.unlistedByte &&
      Memory.wfFrom (k + 1) size rest

/-- The canonical form of a storage of `size` bytes. -/
def Memory.wf (size : Nat) (m : Memory) : Bool := Memory.wfFrom 0 size m

/-- The storage that holds a byte block from index `start` on. -/
def Memory.ofBytes (start : Nat) : List Byte → Memory
  | [] => []
  | v :: rest =>
    if v = Config.unlistedByte then Memory.ofBytes (start + 1) rest
    else (start, v) :: Memory.ofBytes (start + 1) rest

end Sys2Proof
end

