-- ==== Sys2Proof/Machine/Registers.lean ====
section
/-! DEFINITION. One named update per field of `State`. Laws/State.lean says what each leaves alone. -/

namespace Sys2Proof.Machine

/-- Set `a` (10_state.md rule R10). -/
def State.setA (s : State) (v : Byte) : State := { s with a := v }

/-- Set `x` (10_state.md rule R11). -/
def State.setX (s : State) (v : Byte) : State := { s with x := v }

/-- Set `y` (10_state.md rule R12). -/
def State.setY (s : State) (v : Byte) : State := { s with y := v }

/-- Set `sp` (10_state.md rule R14). -/
def State.setSp (s : State) (v : Byte) : State := { s with sp := v }

/-- Set `pc` (10_state.md rule R13). -/
def State.setPc (s : State) (v : Word) : State := { s with pc := v }

/-- Set `p` (10_state.md rule R17). -/
def State.setP (s : State) (v : Byte) : State := { s with p := v }

/-- Set `nmiPending` (10_state.md rule R26). -/
def State.setNmiPending (s : State) (v : Bool) : State := { s with nmiPending := v }

/-- Set `ram` (10_state.md rule R28). -/
def State.setRam (s : State) (v : Memory) : State := { s with ram := v }

/-- Set `cart` (10_state.md rule R29). -/
def State.setCart (s : State) (v : Option Cartridge) : State := { s with cart := v }

/-- Set `vtu` (10_state.md rules R30 to R39). -/
def State.setVtu (s : State) (v : Vtu) : State := { s with vtu := v }

/-- Set `busDraws` (log entry 4). -/
def State.setBusDraws (s : State) (v : Nat) : State := { s with busDraws := v }

/-- Set `resetDone` (70_reset_and_hazards.md rule R322). -/
def State.setResetDone (s : State) (v : Bool) : State := { s with resetDone := v }

/-- Set `inputs` (log entry 3). -/
def State.setInputs (s : State) (v : List Boundary) : State := { s with inputs := v }

/-- Set `out` (10_state.md rule R40). -/
def State.setOut (s : State) (v : StepOutput) : State := { s with out := v }

/-- Halt, recording the opcode byte that caused it (10_state.md rule R27). -/
def State.halt (s : State) (op : Byte) : State := { s with halted := true, faultOpcode := op }

end Sys2Proof.Machine
end

