-- ==== Sys2Proof/Machine/Device.lean ====
section
/-! DEFINITION. The eight device registers of the video-timing unit and the video memory behind them
(spec/60_exceptions.md rules R280 to R292, 20_memory.md rules R70, R71), and the `OpenBus` draw. -/

namespace Sys2Proof.Machine

/-- A read of `OpenBus(addr)`: a fresh free value (20_memory.md rule R54, log entry 4). -/
def openBusRead (addr : Word) (s : State) : Byte × State :=
  (Config.openBus s.busDraws addr, s.setBusDraws (s.busDraws + 1))

/-- The device registers in the order of their numbers (60_exceptions.md rule R280). -/
inductive DevReg where
  | control | mask | status | oamAddr | oamData | scroll | address | data
  deriving DecidableEq, Repr

/-- The device register of a number modulo 8 (20_memory.md rule R53). -/
def devRegOf (n : Nat) : DevReg :=
  match n % 8 with
  | 0 => .control
  | 1 => .mask
  | 2 => .status
  | 3 => .oamAddr
  | 4 => .oamData
  | 5 => .scroll
  | 6 => .address
  | _ => .data

/-- The canonical address `0x2000 + r` of a device register (60_exceptions.md rule R280). -/
def DevReg.addr : DevReg → Word
  | .control => 0x2000
  | .mask => 0x2001
  | .status => 0x2002
  | .oamAddr => 0x2003
  | .oamData => 0x2004
  | .scroll => 0x2005
  | .address => 0x2006
  | .data => 0x2007

/-- `nmi_enable`, bit 7 of `ctrl` (10_state.md rule R32). -/
def nmiEnable (v : Vtu) : Bool := v.ctrl.getLsbD 7

/-- `vram_incr`: 32 when bit 2 of `ctrl` is 1, else 1 (10_state.md rule R32). -/
def vramIncr (v : Vtu) : Word := if v.ctrl.getLsbD 2 then 32 else 1

/-- `VramRead(a)` (20_memory.md rule R70). With no cartridge, where no step is enabled, nothing
drives the bus (log entry 11). -/
def vramRead (a : Word) (s : State) : Byte × State :=
  let m := a.toNat % 0x4000
  if m ≤ 0x1FFF then
    match s.cart with
    | some c => (Memory.read c.chr.bytes m, s)
    | none => openBusRead DevReg.data.addr s
  else (Memory.read s.vtu.vram (m - 0x2000), s)

/-- `VramWrite(a, v)` (20_memory.md rule R71). -/
def vramWrite (a : Word) (v : Byte) (u : Vtu) : Vtu :=
  let m := a.toNat % 0x4000
  if m ≤ 0x1FFF then u else { u with vram := Memory.write u.vram (m - 0x2000) v }

/-- The advance of `vram_addr` after a data access (60_exceptions.md rules R289, R290). -/
def stepVramAddr (u : Vtu) : Vtu := { u with vramAddr := u.vramAddr + vramIncr u }

/-- The status byte: `vblank`, `sprite0`, and six open-bus bits (60_exceptions.md rule R283). -/
def statusByte (u : Vtu) (bus : Byte) : Byte :=
  (if u.vblank then 0x80 else 0) ||| (if u.sprite0 then 0x40 else 0) ||| (bus &&& 0x3F)

/-- `DevRead(r)` (60_exceptions.md rules R281, R283, R286, R289). -/
def devRead (r : DevReg) (s : State) : Byte × State :=
  match r with
  | .control | .mask | .oamAddr | .scroll | .address => openBusRead r.addr s
  | .status =>
    let r := openBusRead r.addr s
    (statusByte s.vtu r.1, r.2.setVtu { r.2.vtu with vblank := false, writeLatch := false })
  | .oamData => (Memory.read s.vtu.oam s.vtu.oamAddr.toNat, s)
  | .data =>
    let r := vramRead s.vtu.vramAddr s
    (r.1, r.2.setVtu (stepVramAddr r.2.vtu))

/-- `DevWrite(r, v)` (60_exceptions.md rules R282, R284, R285, R287, R288, R290 to R292). -/
def devWrite (r : DevReg) (v : Byte) (u : Vtu) : Vtu :=
  match r with
  | .control => { u with ctrl := v }
  | .mask => { u with mask := v }
  | .status => u
  | .oamAddr => { u with oamAddr := v }
  | .oamData => { u with oam := Memory.write u.oam u.oamAddr.toNat v, oamAddr := u.oamAddr + 1 }
  | .scroll =>
    if u.writeLatch then { u with scrollY := v, writeLatch := false }
    else { u with scrollX := v, writeLatch := true }
  | .address =>
    if u.writeLatch then { u with vramAddr := mkWord (hiByte u.vramAddr) v, writeLatch := false }
    else { u with vramAddr := mkWord v (loByte u.vramAddr), writeLatch := true }
  | .data => stepVramAddr (vramWrite u.vramAddr v u)

end Sys2Proof.Machine
end

