-- ==== Sys2Proof/Machine/Flags.lean ====
section
/-! DEFINITION. The status register `P`: its flags by bit (spec/10_state.md rule R17), every flag
computation of the spec, and the forms in which `P` is pushed and loaded. -/

namespace Sys2Proof.Machine

/-- `P.N`, bit 7. -/
def flagN (p : Byte) : Bool := p.getLsbD 7
/-- `P.V`, bit 6. -/
def flagV (p : Byte) : Bool := p.getLsbD 6
/-- `P.U`, bit 5, always 1 (rule R18). -/
def flagU (p : Byte) : Bool := p.getLsbD 5
/-- `P.B`, bit 4, always 0 in the register (rule R19). -/
def flagB (p : Byte) : Bool := p.getLsbD 4
/-- `P.D`, bit 3, stored without effect (rule R20). -/
def flagD (p : Byte) : Bool := p.getLsbD 3
/-- `P.I`, bit 2 (rule R21). -/
def flagI (p : Byte) : Bool := p.getLsbD 2
/-- `P.Z`, bit 1. -/
def flagZ (p : Byte) : Bool := p.getLsbD 1
/-- `P.C`, bit 0. -/
def flagC (p : Byte) : Bool := p.getLsbD 0

/-- The byte with bit `i` set to `b`. -/
def withBit (p : Byte) (i : Nat) (b : Bool) : Byte :=
  if b then p ||| (1#8 <<< i) else p &&& ~~~(1#8 <<< i)

/-- `P.N <- b`. -/
def withN (p : Byte) (b : Bool) : Byte := withBit p 7 b
/-- `P.V <- b`. -/
def withV (p : Byte) (b : Bool) : Byte := withBit p 6 b
/-- `P.D <- b`. -/
def withD (p : Byte) (b : Bool) : Byte := withBit p 3 b
/-- `P.I <- b`. -/
def withI (p : Byte) (b : Bool) : Byte := withBit p 2 b
/-- `P.Z <- b`. -/
def withZ (p : Byte) (b : Bool) : Byte := withBit p 1 b
/-- `P.C <- b`. -/
def withC (p : Byte) (b : Bool) : Byte := withBit p 0 b

/-- `SetZN(v)` on the status byte (rule R24). -/
def statusZN (p v : Byte) : Byte := withN (withZ p (v == 0)) (v.getLsbD 7)

/-- `SetZN(v)` (rule R24). -/
def State.setZN (s : State) (v : Byte) : State := s.setP (statusZN s.p v)

/-- The byte result and four flags of `AddWithCarry` (43_arithmetic.md rule R170). -/
structure AddResult where
  r : Byte
  n : Bool
  v : Bool
  z : Bool
  c : Bool
  deriving DecidableEq, Repr

/-- `AddWithCarry(a, m, c)` (43_arithmetic.md rule R170). -/
def addWithCarry (a m : Byte) (c : Bool) : AddResult :=
  let sum := a.toNat + m.toNat + c.toNat
  let r : Byte := BitVec.ofNat 8 sum
  { r := r
    n := r.getLsbD 7
    v := a.getLsbD 7 == m.getLsbD 7 && r.getLsbD 7 != a.getLsbD 7
    z := r == 0
    c := decide (sum > 255) }

/-- `P.N`, `P.V`, `P.Z`, `P.C` from an addition (43_arithmetic.md rules R165, R166). -/
def statusAdd (p : Byte) (res : AddResult) : Byte :=
  withC (withZ (withV (withN p res.n) res.v) res.z) res.c

/-- `Compare(r, m)` on the status byte (43_arithmetic.md rule R171). -/
def statusCompare (p r m : Byte) : Byte :=
  let d := r - m
  withN (withZ (withC p (decide (m.toNat ≤ r.toNat))) (d == 0)) (d.getLsbD 7)

/-- `BIT`'s flags: `Z` from `A & M`, `N` and `V` from bits 7 and 6 of `M` (42_logic.md rule R158). -/
def statusBit (p a m : Byte) : Byte :=
  withV (withN (withZ p ((a &&& m) == 0)) (m.getLsbD 7)) (m.getLsbD 6)

/-- The flags of a shift or rotate: `C` the bit shifted out, `Z` and `N` from the result
(45_shift.md rules R190 to R193). -/
def statusShift (p : Byte) (out : Bool) (r : Byte) : Byte := statusZN (withC p out) r

/-- The byte PHP and BRK push: `P | 0x30` (41_transfer_stack.md rule R147, 49_system.md rule R235). -/
def pushedStatus (p : Byte) : Byte := p ||| 0x30

/-- `P` loaded from a popped byte: bit 4 discarded, bit 5 forced to 1 (41_transfer_stack.md rule R149,
49_system.md rule R236). -/
def loadedStatus (v : Byte) : Byte := (v &&& 0xCF) ||| 0x20

end Sys2Proof.Machine
end

