-- ==== Sys2Proof/Machine/Ops.lean ====
section
/-! DEFINITION. The named operations over the bus, the stack and the interrupt controller: the router
(spec/20_memory.md), `Push` and `Pop` (10_state.md), taking an interrupt and returning from one
(60_exceptions.md). -/

namespace Sys2Proof.Machine

/-- The four backing stores of the processor address space (20_memory.md rule R58). -/
inductive Backing where
  | ram (index : Nat)
  | device (r : DevReg)
  | unmapped
  | program (offset : Nat)
  deriving DecidableEq, Repr

/-- The router: the backing store of an address (20_memory.md rules R50 to R58). -/
def route (addr : Word) : Backing :=
  let a := addr.toNat
  if a ≤ 0x1FFF then .ram (a % 0x0800)
  else if a ≤ 0x3FFF then .device (devRegOf (a - 0x2000))
  else if a ≤ 0x7FFF then .unmapped
  else .program (a - 0x8000)

/-- `MemRead(addr, 1)` (20_memory.md rule R50). With no cartridge, where no step is enabled, nothing
drives the program window (log entry 11). -/
def memRead (addr : Word) (s : State) : Byte × State :=
  match route addr with
  | .ram i => (Memory.read s.ram i, s)
  | .device r => devRead r s
  | .unmapped => openBusRead addr s
  | .program o =>
    match s.cart with
    | some c => (Memory.read c.prg.bytes (o % c.prg.len), s)
    | none => openBusRead addr s

/-- `MemWrite(addr, 1, v)` (20_memory.md rule R51). -/
def memWrite (addr : Word) (v : Byte) (s : State) : State :=
  match route addr with
  | .ram i => s.setRam (Memory.write s.ram i v)
  | .device r => s.setVtu (devWrite r v s.vtu)
  | .unmapped => s
  | .program _ => s

/-- `Read16(addr)`, low byte first (20_memory.md rule R60). -/
def read16 (addr : Word) (s : State) : Word × State :=
  let lo := memRead addr s
  let hi := memRead (addr + 1) lo.2
  (mkWord hi.1 lo.1, hi.2)

/-- The stack address `0x0100 + SP` (10_state.md rule R14). -/
def stackAddr (sp : Byte) : Word := 0x0100 + zext16 sp

/-- `Push(v)` (10_state.md rule R15). -/
def push (v : Byte) (s : State) : State :=
  (memWrite (stackAddr s.sp) v s).setSp (s.sp - 1)

/-- `Pop()` (10_state.md rule R16). -/
def pop (s : State) : Byte × State :=
  memRead (stackAddr (s.sp + 1)) (s.setSp (s.sp + 1))

/-- Push a word, high byte first (20_memory.md rule R59). -/
def pushWord (w : Word) (s : State) : State := push (loByte w) (push (hiByte w) s)

/-- Pop a word, low byte first. -/
def popWord (s : State) : Word × State :=
  let lo := pop s
  let hi := pop lo.2
  (mkWord hi.1 lo.1, hi.2)

/-- `Vector(kind)` (20_memory.md rule R69, 60_exceptions.md rule R252). -/
def vector : InterruptKind → Word
  | .reset => 0xFFFC
  | .nonMaskable => 0xFFFA
  | .maskable | .softwareBreak => 0xFFFE

/-- The status byte an entry pushes: bit 4 is set for SoftwareBreak only (60_exceptions.md rule
R252). -/
def entryStatus (kind : InterruptKind) (p : Byte) : Byte :=
  match kind with
  | .softwareBreak => pushedStatus p
  | .reset | .nonMaskable | .maskable => p

/-- The three pushes of an entry; Reset pushes nothing (60_exceptions.md rule R252). -/
def pushFrame (kind : InterruptKind) (s : State) : State :=
  match kind with
  | .reset => s
  | .nonMaskable | .maskable | .softwareBreak => push (entryStatus kind s.p) (pushWord s.pc s)

/-- `P.I <- 1` and `PC <- Read16(Vector(kind))`, the end of every entry (60_exceptions.md rule
R252). -/
def enterVector (kind : InterruptKind) (s : State) : State :=
  let r := read16 (vector kind) (s.setP (withI s.p true))
  r.2.setPc r.1

/-- `RaiseInterrupt(kind)`: the cycle cost and the state (60_exceptions.md rule R252). A masked
Maskable request has no effect and costs nothing (rule R253). -/
def raiseInterrupt (kind : InterruptKind) (s : State) : Nat × State :=
  if kind = .maskable ∧ flagI s.p = true then (0, s)
  else (Config.entryCycles, enterVector kind (pushFrame kind s))

/-- The return from an interrupt: pop `P`, then `PC` (60_exceptions.md rule R263, 49_system.md rule
R236). -/
def returnFromInterrupt (s : State) : State :=
  let st := pop s
  let ret := popWord (st.2.setP (loadedStatus st.1))
  ret.2.setPc ret.1

/-- The interrupt taken at a boundary, if any: NonMaskable first, then an unmasked Maskable request
(60_exceptions.md rules R260, R261). The entry outputs its cost and no opcode. -/
def serviceInterrupt (irqRequest : Bool) (s : State) : Option State :=
  if s.nmiPending then
    let r := raiseInterrupt .nonMaskable (s.setNmiPending false)
    some (r.2.setOut ⟨r.1, none⟩)
  else if !flagI s.p && irqRequest then
    let r := raiseInterrupt .maskable s
    some (r.2.setOut ⟨r.1, none⟩)
  else none

end Sys2Proof.Machine
end

