-- ==== Sys2Proof/Machine/Operands.lean ====
section
/-! DEFINITION. Every operand form: resolving an addressing mode (spec/30_encoding.md rules R93 to
R106), reading and writing the operand, the cost of an instruction (rule R107), and the shapes the
meanings share. `PC` already points at the next instruction here: the operand bytes were fetched. -/

namespace Sys2Proof.Machine

/-- Where an operand is: register `A`, the fetched operand byte itself, or a bus address. -/
inductive Place where
  | accumulator
  | fetched (v : Byte)
  | bus (ea : Word)
  deriving DecidableEq, Repr

/-- What `Operand(mode)` returns: the place, whether a page was crossed, and the state after the
pointer reads. -/
structure Resolved where
  place : Place
  crossed : Bool
  state : State
  deriving DecidableEq, Repr

/-- A pointer: low byte at `lo`, then high byte at `hi` (30_encoding.md rules R102 to R104). -/
def readPointer (lo hi : Word) (s : State) : Word × State :=
  let tlo := memRead lo s
  let thi := memRead hi tlo.2
  (mkWord thi.1 tlo.1, thi.2)

/-- `Operand(mode)` (30_encoding.md rules R93 to R104). -/
def resolve (o : Operand) (s : State) : Resolved :=
  match o with
  | .accumulator => ⟨.accumulator, false, s⟩
  | .immediate v => ⟨.fetched v, false, s⟩
  | .zeroPage d8 => ⟨.bus (zext16 d8), false, s⟩
  | .zeroPageX d8 => ⟨.bus (zext16 (d8 + s.x)), false, s⟩
  | .zeroPageY d8 => ⟨.bus (zext16 (d8 + s.y)), false, s⟩
  | .absolute w => ⟨.bus w, false, s⟩
  | .absoluteX w => ⟨.bus (w + zext16 s.x), pageCrossed (w + zext16 s.x) w, s⟩
  | .absoluteY w => ⟨.bus (w + zext16 s.y), pageCrossed (w + zext16 s.y) w, s⟩
  | .indirect w =>
    let r := readPointer w (mkWord (hiByte w) (loByte w + 1)) s
    ⟨.bus r.1, false, r.2⟩
  | .indirectX d8 =>
    let z := d8 + s.x
    let r := readPointer (zext16 z) (zext16 (z + 1)) s
    ⟨.bus r.1, false, r.2⟩
  | .indirectY d8 =>
    let r := readPointer (zext16 d8) (zext16 (d8 + 1)) s
    let ea := r.1 + zext16 s.y
    ⟨.bus ea, pageCrossed ea r.1, r.2⟩

/-- The operand byte. An immediate operand was read by its fetch (30_encoding.md rule R95, log entry
10); register `A` makes no access (45_shift.md rule R194). -/
def readPlace (pl : Place) (s : State) : Byte × State :=
  match pl with
  | .accumulator => (s.a, s)
  | .fetched v => (v, s)
  | .bus ea => memRead ea s

/-- Write the operand (45_shift.md rule R194). No table row writes an immediate operand. -/
def writePlace (pl : Place) (v : Byte) (s : State) : State :=
  match pl with
  | .accumulator => s.setA v
  | .fetched _ => s
  | .bus ea => memWrite ea v s

/-- What an instruction did: its state, whether a page was crossed, and a branch's extra cycles. -/
structure Effect where
  state : State
  crossed : Bool
  extra : Nat
  deriving DecidableEq, Repr

/-- The cycle cost (30_encoding.md rules R90, R107). -/
def instrCycles (e : TableEntry) (crossed : Bool) (extra : Nat) : Nat :=
  e.baseCycles + (if e.pageCrossPenalty && crossed then 1 else 0) + extra

/-- Run an instruction's effect and output its cost and opcode (30_encoding.md rule R90). A term the
table has no row for is refused by name. -/
def runForm (i : Instr) (body : State → Effect) (s : State) : Host.Outcome State Fault Refusal :=
  match i.entry with
  | none => .refused .noSuchForm
  | some e =>
    let r := body s
    .next (r.state.setOut ⟨instrCycles e r.crossed r.extra, some e.opcode⟩)

/-- An instruction of Implicit mode, or one whose operand is not a byte. -/
def runImplicit (i : Instr) (f : State → State) (s : State) : Host.Outcome State Fault Refusal :=
  runForm i (fun t => ⟨f t, false, 0⟩) s

/-- An instruction that reads its operand byte. -/
def runRead (i : Instr) (o : Operand) (f : Byte → State → State) (s : State) :
    Host.Outcome State Fault Refusal :=
  runForm i (fun t =>
    let r := resolve o t
    let m := readPlace r.place r.state
    ⟨f m.1 m.2, r.crossed, 0⟩) s

/-- An instruction that writes a register's byte to its operand and reads nothing there. -/
def runStore (i : Instr) (o : Operand) (value : State → Byte) (s : State) :
    Host.Outcome State Fault Refusal :=
  runForm i (fun t =>
    let r := resolve o t
    ⟨writePlace r.place (value r.state) r.state, r.crossed, 0⟩) s

/-- An instruction that reads its operand byte once and writes it once (20_memory.md rule R64).
`f` gives the result and the new status from the operand and the old status. -/
def runModify (i : Instr) (o : Operand) (f : Byte → Byte → Byte × Byte) (s : State) :
    Host.Outcome State Fault Refusal :=
  runForm i (fun t =>
    let r := resolve o t
    let m := readPlace r.place r.state
    let res := f m.1 m.2.p
    ⟨(writePlace r.place res.1 m.2).setP res.2, r.crossed, 0⟩) s

/-- `Branch(cond, target, crossed)` (47_branch.md rule R210, 30_encoding.md rule R105). -/
def runBranch (i : Instr) (cond : Byte → Bool) (d8 : Byte) (s : State) :
    Host.Outcome State Fault Refusal :=
  runForm i (fun t =>
    let target := t.pc + sext16 d8
    let crossed := pageCrossed target t.pc
    if cond t.p then ⟨t.setPc target, crossed, 1 + (if crossed then 1 else 0)⟩
    else ⟨t, crossed, 0⟩) s

end Sys2Proof.Machine
end

