-- ==== Sys2Proof/Machine/Arithmetic.lean ====
section
/-! DEFINITION. Arithmetic and compares (spec/43_arithmetic.md); binary whatever `P.D` holds
(rule R172). -/

namespace Sys2Proof.Machine

/-- `A`, `N`, `V`, `Z`, `C` from an addition (rules R165, R166). -/
def State.setAdd (s : State) (r : AddResult) : State := (s.setA r.r).setP (statusAdd s.p r)

/-- ADC (rule R165). -/
def execAdc (o : Operand) (s : State) : Host.Outcome State Fault Refusal :=
  runRead (.adc o) o (fun m t => t.setAdd (addWithCarry t.a m (flagC t.p))) s

/-- SBC (rule R166): the addition of the one's complement. -/
def execSbc (o : Operand) (s : State) : Host.Outcome State Fault Refusal :=
  runRead (.sbc o) o (fun m t => t.setAdd (addWithCarry t.a (m ^^^ 0xFF) (flagC t.p))) s

/-- CMP (rule R167). -/
def execCmp (o : Operand) (s : State) : Host.Outcome State Fault Refusal :=
  runRead (.cmp o) o (fun m t => t.setP (statusCompare t.p t.a m)) s

/-- CPX (rule R168). -/
def execCpx (o : Operand) (s : State) : Host.Outcome State Fault Refusal :=
  runRead (.cpx o) o (fun m t => t.setP (statusCompare t.p t.x m)) s

/-- CPY (rule R169). -/
def execCpy (o : Operand) (s : State) : Host.Outcome State Fault Refusal :=
  runRead (.cpy o) o (fun m t => t.setP (statusCompare t.p t.y m)) s

end Sys2Proof.Machine
end

