-- ==== Sys2Proof/Machine/Branches.lean ====
section
/-! DEFINITION. Conditional branches (spec/47_branch.md). -/

namespace Sys2Proof.Machine

/-- BCC (rules R210, R211). -/
def execBcc (d8 : Byte) (s : State) : Host.Outcome State Fault Refusal :=
  runBranch (.bcc d8) (fun p => !flagC p) d8 s

/-- BCS (rules R210, R212). -/
def execBcs (d8 : Byte) (s : State) : Host.Outcome State Fault Refusal :=
  runBranch (.bcs d8) (fun p => flagC p) d8 s

/-- BEQ (rules R210, R213). -/
def execBeq (d8 : Byte) (s : State) : Host.Outcome State Fault Refusal :=
  runBranch (.beq d8) (fun p => flagZ p) d8 s

/-- BNE (rules R210, R214). -/
def execBne (d8 : Byte) (s : State) : Host.Outcome State Fault Refusal :=
  runBranch (.bne d8) (fun p => !flagZ p) d8 s

/-- BMI (rules R210, R215). -/
def execBmi (d8 : Byte) (s : State) : Host.Outcome State Fault Refusal :=
  runBranch (.bmi d8) (fun p => flagN p) d8 s

/-- BPL (rules R210, R216). -/
def execBpl (d8 : Byte) (s : State) : Host.Outcome State Fault Refusal :=
  runBranch (.bpl d8) (fun p => !flagN p) d8 s

/-- BVC (rules R210, R217). -/
def execBvc (d8 : Byte) (s : State) : Host.Outcome State Fault Refusal :=
  runBranch (.bvc d8) (fun p => !flagV p) d8 s

/-- BVS (rules R210, R218). -/
def execBvs (d8 : Byte) (s : State) : Host.Outcome State Fault Refusal :=
  runBranch (.bvs d8) (fun p => flagV p) d8 s

end Sys2Proof.Machine
end

