-- ==== Sys2Proof/Machine/FlagOps.lean ====
section
/-! DEFINITION. Flag instructions (spec/48_flags.md). -/

namespace Sys2Proof.Machine

/-- CLC (rule R225). -/
def execClc (s : State) : Host.Outcome State Fault Refusal :=
  runImplicit .clc (fun t => t.setP (withC t.p false)) s

/-- SEC (rule R226). -/
def execSec (s : State) : Host.Outcome State Fault Refusal :=
  runImplicit .sec (fun t => t.setP (withC t.p true)) s

/-- CLI (rule R227). -/
def execCli (s : State) : Host.Outcome State Fault Refusal :=
  runImplicit .cli (fun t => t.setP (withI t.p false)) s

/-- SEI (rule R228). -/
def execSei (s : State) : Host.Outcome State Fault Refusal :=
  runImplicit .sei (fun t => t.setP (withI t.p true)) s

/-- CLV (rule R229). -/
def execClv (s : State) : Host.Outcome State Fault Refusal :=
  runImplicit .clv (fun t => t.setP (withV t.p false)) s

/-- CLD (rule R230). -/
def execCld (s : State) : Host.Outcome State Fault Refusal :=
  runImplicit .cld (fun t => t.setP (withD t.p false)) s

/-- SED (rule R231). -/
def execSed (s : State) : Host.Outcome State Fault Refusal :=
  runImplicit .sed (fun t => t.setP (withD t.p true)) s

end Sys2Proof.Machine
end

