-- ==== Sys2Proof/Machine/IncDec.lean ====
section
/-! DEFINITION. Increments and decrements (spec/44_incdec.md). -/

namespace Sys2Proof.Machine

/-- INC (rule R180). -/
def execInc (o : Operand) (s : State) : Host.Outcome State Fault Refusal :=
  runModify (.inc o) o (fun v p => (v + 1, statusZN p (v + 1))) s

/-- DEC (rule R181). -/
def execDec (o : Operand) (s : State) : Host.Outcome State Fault Refusal :=
  runModify (.dec o) o (fun v p => (v - 1, statusZN p (v - 1))) s

/-- INX (rule R182). -/
def execInx (s : State) : Host.Outcome State Fault Refusal :=
  runImplicit .inx (fun t => (t.setX (t.x + 1)).setZN (t.x + 1)) s

/-- INY (rule R183). -/
def execIny (s : State) : Host.Outcome State Fault Refusal :=
  runImplicit .iny (fun t => (t.setY (t.y + 1)).setZN (t.y + 1)) s

/-- DEX (rule R184). -/
def execDex (s : State) : Host.Outcome State Fault Refusal :=
  runImplicit .dex (fun t => (t.setX (t.x - 1)).setZN (t.x - 1)) s

/-- DEY (rule R185). -/
def execDey (s : State) : Host.Outcome State Fault Refusal :=
  runImplicit .dey (fun t => (t.setY (t.y - 1)).setZN (t.y - 1)) s

end Sys2Proof.Machine
end

