-- ==== Sys2Proof/Machine/Jump.lean ====
section
/-! DEFINITION. Jumps, calls and returns (spec/46_jump_call.md). -/

namespace Sys2Proof.Machine

/-- `PC <- ea`; only an operand with an effective address is a jump target (rule R200). -/
def jumpTo (pl : Place) (s : State) : State :=
  match pl with
  | .bus ea => s.setPc ea
  | .accumulator | .fetched _ => s

/-- JMP (rule R200). -/
def execJmp (o : Operand) (s : State) : Host.Outcome State Fault Refusal :=
  runForm (.jmp o) (fun t => ⟨jumpTo (resolve o t).place (resolve o t).state, false, 0⟩) s

/-- JSR (rule R201): the address of its own last byte is pushed. -/
def execJsr (target : Word) (s : State) : Host.Outcome State Fault Refusal :=
  runImplicit (.jsr target) (fun t => (pushWord (t.pc - 1) t).setPc target) s

/-- RTS (rule R202). -/
def execRts (s : State) : Host.Outcome State Fault Refusal :=
  runImplicit .rts (fun t => (popWord t).2.setPc ((popWord t).1 + 1)) s

end Sys2Proof.Machine
end

