-- ==== Sys2Proof/Machine/LoadStore.lean ====
section
/-! DEFINITION. Loads and stores (spec/40_load_store.md). -/

namespace Sys2Proof.Machine

/-- LDA (rule R130). -/
def execLda (o : Operand) (s : State) : Host.Outcome State Fault Refusal :=
  runRead (.lda o) o (fun m t => (t.setA m).setZN m) s

/-- LDX (rule R131). -/
def execLdx (o : Operand) (s : State) : Host.Outcome State Fault Refusal :=
  runRead (.ldx o) o (fun m t => (t.setX m).setZN m) s

/-- LDY (rule R132). -/
def execLdy (o : Operand) (s : State) : Host.Outcome State Fault Refusal :=
  runRead (.ldy o) o (fun m t => (t.setY m).setZN m) s

/-- STA (rule R133). -/
def execSta (o : Operand) (s : State) : Host.Outcome State Fault Refusal :=
  runStore (.sta o) o (fun t => t.a) s

/-- STX (rule R134). -/
def execStx (o : Operand) (s : State) : Host.Outcome State Fault Refusal :=
  runStore (.stx o) o (fun t => t.x) s

/-- STY (rule R135). -/
def execSty (o : Operand) (s : State) : Host.Outcome State Fault Refusal :=
  runStore (.sty o) o (fun t => t.y) s

end Sys2Proof.Machine
end

