-- ==== Sys2Proof/Machine/Logic.lean ====
section
/-! DEFINITION. Logical instructions (spec/42_logic.md). -/

namespace Sys2Proof.Machine

/-- AND (rule R155). -/
def execAnd (o : Operand) (s : State) : Host.Outcome State Fault Refusal :=
  runRead (.and o) o (fun m t => (t.setA (t.a &&& m)).setZN (t.a &&& m)) s

/-- ORA (rule R156). -/
def execOra (o : Operand) (s : State) : Host.Outcome State Fault Refusal :=
  runRead (.ora o) o (fun m t => (t.setA (t.a ||| m)).setZN (t.a ||| m)) s

/-- EOR (rule R157). -/
def execEor (o : Operand) (s : State) : Host.Outcome State Fault Refusal :=
  runRead (.eor o) o (fun m t => (t.setA (t.a ^^^ m)).setZN (t.a ^^^ m)) s

/-- BIT (rule R158). -/
def execBit (o : Operand) (s : State) : Host.Outcome State Fault Refusal :=
  runRead (.bit o) o (fun m t => t.setP (statusBit t.p t.a m)) s

end Sys2Proof.Machine
end

