-- ==== Sys2Proof/Machine/Shift.lean ====
section
/-! DEFINITION. Shifts and rotates (spec/45_shift.md). -/

namespace Sys2Proof.Machine

/-- The byte of carry shifted into bit 0 or bit 7 (rules R192, R193). -/
def carryIn (c : Bool) (bit : Nat) : Byte := if c then 1#8 <<< bit else 0

/-- The result and status of ASL (rule R190). -/
def shiftAsl (v p : Byte) : Byte × Byte := (v <<< 1, statusShift p (v.getLsbD 7) (v <<< 1))

/-- The result and status of LSR (rule R191). -/
def shiftLsr (v p : Byte) : Byte × Byte := (v >>> 1, statusShift p (v.getLsbD 0) (v >>> 1))

/-- The result and status of ROL: the old carry enters bit 0 (rule R192). -/
def shiftRol (v p : Byte) : Byte × Byte :=
  let r := (v <<< 1) ||| carryIn (flagC p) 0
  (r, statusShift p (v.getLsbD 7) r)

/-- The result and status of ROR: the old carry enters bit 7 (rule R193). -/
def shiftRor (v p : Byte) : Byte × Byte :=
  let r := (v >>> 1) ||| carryIn (flagC p) 7
  (r, statusShift p (v.getLsbD 0) r)

/-- ASL (rules R190, R194). -/
def execAsl (o : Operand) (s : State) : Host.Outcome State Fault Refusal :=
  runModify (.asl o) o shiftAsl s

/-- LSR (rules R191, R194). -/
def execLsr (o : Operand) (s : State) : Host.Outcome State Fault Refusal :=
  runModify (.lsr o) o shiftLsr s

/-- ROL (rules R192, R194). -/
def execRol (o : Operand) (s : State) : Host.Outcome State Fault Refusal :=
  runModify (.rol o) o shiftRol s

/-- ROR (rules R193, R194). -/
def execRor (o : Operand) (s : State) : Host.Outcome State Fault Refusal :=
  runModify (.ror o) o shiftRor s

end Sys2Proof.Machine
end

