-- ==== Sys2Proof/Machine/Stack.lean ====
section
/-! DEFINITION. Stack instructions (spec/41_transfer_stack.md). -/

namespace Sys2Proof.Machine

/-- PHA (rule R146). -/
def execPha (s : State) : Host.Outcome State Fault Refusal :=
  runImplicit .pha (fun t => push t.a t) s

/-- PHP (rule R147). -/
def execPhp (s : State) : Host.Outcome State Fault Refusal :=
  runImplicit .php (fun t => push (pushedStatus t.p) t) s

/-- PLA (rule R148). -/
def execPla (s : State) : Host.Outcome State Fault Refusal :=
  runImplicit .pla (fun t => ((pop t).2.setA (pop t).1).setZN (pop t).1) s

/-- PLP (rule R149). -/
def execPlp (s : State) : Host.Outcome State Fault Refusal :=
  runImplicit .plp (fun t => (pop t).2.setP (loadedStatus (pop t).1)) s

end Sys2Proof.Machine
end

