-- ==== Sys2Proof/Machine/System.lean ====
section
/-! DEFINITION. System instructions and the illegal-opcode entry (spec/49_system.md). -/

namespace Sys2Proof.Machine

/-- BRK (rule R235): one padding byte is skipped, then the SoftwareBreak entry is taken. -/
def execBrk (s : State) : Host.Outcome State Fault Refusal :=
  runImplicit .brk (fun t => (raiseInterrupt .softwareBreak (t.setPc (t.pc + 1))).2) s

/-- RTI (rule R236). -/
def execRti (s : State) : Host.Outcome State Fault Refusal :=
  runImplicit .rti returnFromInterrupt s

/-- NOP (rule R237). -/
def execNop (s : State) : Host.Outcome State Fault Refusal :=
  runImplicit .nop (fun t => t) s

/-- ILL (rule R238, 60_exceptions.md rule R264): the machine halts and records the opcode byte; no
cycles pass and no vector is taken. -/
def execIll (op : Byte) (s : State) : Host.Outcome State Fault Refusal :=
  runImplicit (.ill op) (fun t => t.halt op) s

end Sys2Proof.Machine
end

