-- ==== Sys2Proof/Machine/Transfer.lean ====
section
/-! DEFINITION. Register transfers (spec/41_transfer_stack.md). -/

namespace Sys2Proof.Machine

/-- TAX (rule R140). -/
def execTax (s : State) : Host.Outcome State Fault Refusal :=
  runImplicit .tax (fun t => (t.setX t.a).setZN t.a) s

/-- TAY (rule R141). -/
def execTay (s : State) : Host.Outcome State Fault Refusal :=
  runImplicit .tay (fun t => (t.setY t.a).setZN t.a) s

/-- TXA (rule R142). -/
def execTxa (s : State) : Host.Outcome State Fault Refusal :=
  runImplicit .txa (fun t => (t.setA t.x).setZN t.x) s

/-- TYA (rule R143). -/
def execTya (s : State) : Host.Outcome State Fault Refusal :=
  runImplicit .tya (fun t => (t.setA t.y).setZN t.y) s

/-- TSX (rule R144). -/
def execTsx (s : State) : Host.Outcome State Fault Refusal :=
  runImplicit .tsx (fun t => (t.setX t.sp).setZN t.sp) s

/-- TXS (rule R145): no flag is written. -/
def execTxs (s : State) : Host.Outcome State Fault Refusal :=
  runImplicit .txs (fun t => t.setSp t.x) s

end Sys2Proof.Machine
end

