-- ==== Sys2Proof/Machine/Fetch.lean ====
section
/-! DEFINITION. Fetching an instruction's bytes (spec/30_encoding.md rules R90, R91), and placing an
instruction where the next step fetches it (for `State.withFetchWord`). -/

namespace Sys2Proof.Machine

/-- `Fetch8()` (30_encoding.md rule R91). -/
def fetch8 (s : State) : Byte × State :=
  let r := memRead s.pc s
  (r.1, r.2.setPc (r.2.pc + 1))

/-- Fetch the opcode and the operand bytes of its format, in ascending order (20_memory.md rule
R63). -/
def fetchBytes (s : State) : List Byte × State :=
  let op := fetch8 s
  match (tableEntry op.1).mode.format with
  | .op => ([op.1], op.2)
  | .opB =>
    let lo := fetch8 op.2
    ([op.1, lo.1], lo.2)
  | .opW =>
    let lo := fetch8 op.2
    let hi := fetch8 lo.2
    ([op.1, lo.1, hi.1], hi.2)

/-- Whether a byte can be placed at an address: it is backed by `RAM` or by `PRG`. -/
def placeable (addr : Word) : Bool :=
  match route addr with
  | .ram _ | .program _ => true
  | .device _ | .unmapped => false

/-- Put a byte into the `RAM` or `PRG` behind an address, from outside the machine. -/
def placeByte (addr : Word) (v : Byte) (s : State) : State :=
  match route addr, s.cart with
  | .ram i, _ => s.setRam (Memory.write s.ram i v)
  | .program o, some c =>
    s.setCart (some { c with prg :=
      { c.prg with bytes := Memory.write c.prg.bytes (o % c.prg.len) v } })
  | .program _, none | .device _, _ | .unmapped, _ => s

/-- The script with nothing done at the next boundary. -/
def quietInputs : List Boundary → List Boundary
  | [] => []
  | _ :: rest => ⟨[], false⟩ :: rest

/-- The state whose next step fetches the given bytes: a running machine with nothing pending at the
boundary, and `PC` moved to 0x8000 only when no byte can be placed at it (log entry 8). -/
def placeInstruction (bytes : List Byte) (s : State) : State :=
  let pc := if placeable s.pc && placeable (s.pc + 1) && placeable (s.pc + 2) then s.pc else 0x8000
  let t := { s with
    pc := pc
    halted := false
    nmiPending := false
    resetDone := true
    cart := some (s.cart.getD blankCartridge)
    inputs := quietInputs s.inputs }
  placeByte (pc + 2) (bytes.getD 2 0)
    (placeByte (pc + 1) (bytes.getD 1 0) (placeByte pc (bytes.getD 0 0) t))

end Sys2Proof.Machine
end

