-- ==== Sys2Proof/Machine/HostActions.lean ====
section
/-! DEFINITION. What the host does between steps (spec/60_exceptions.md rule R262): installing the
cartridge, Reset, requesting an NMI, reading the frame, and the read-only snapshot. -/

namespace Sys2Proof.Machine

/-- The error of `installRoms` (20_memory.md rule R57). -/
inductive InstallError where
  | invalidRomSize
  deriving DecidableEq, Repr

/-- Whether `PRG` has a legal size: one or two banks (20_memory.md rule R57). -/
def prgSizeOk (n : Nat) : Bool := n = Config.prgBank || n = 2 * Config.prgBank

/-- Whether `CHR` has a legal size: a positive multiple of its bank (20_memory.md rule R57). -/
def chrSizeOk (n : Nat) : Bool := decide (0 < n) && n % Config.chrBank = 0

/-- `installRoms(programData, graphicsData)` (20_memory.md rule R57). -/
def installRoms (programData graphicsData : List Byte) : Except InstallError Cartridge :=
  if prgSizeOk programData.length && chrSizeOk graphicsData.length then
    .ok ⟨⟨programData.length, Memory.ofBytes 0 programData⟩,
      ⟨graphicsData.length, Memory.ofBytes 0 graphicsData⟩⟩
  else .error .invalidRomSize

/-- The video-timing unit after Reset: its construction values, with `OAM`, `VRAM` and
`frame_buffer` kept (70_reset_and_hazards.md rule R321). -/
def resetVtu (u : Vtu) : Vtu :=
  { u with
    scanline := 0, dot := 0, vblank := false, sprite0 := false, ctrl := 0, mask := 0
    writeLatch := false, vramAddr := 0, scrollX := 0, scrollY := 0, oamAddr := 0
    frameReady := false }

/-- `Reset()` (70_reset_and_hazards.md rule R321): the entry of kind Reset, and the video-timing unit
back at its construction values without an advance. -/
def resetMachine (s : State) : State :=
  let r := raiseInterrupt .reset s
  { r.2 with
    nmiPending := false
    vtu := resetVtu r.2.vtu
    resetDone := true
    out := ⟨r.1, none⟩ }

/-- The frame read: the buffer, and `frame_ready` cleared (60_exceptions.md rule R262). -/
def frameRead (s : State) : PixelBuffer × State :=
  (s.vtu.frameBuffer, s.setVtu { s.vtu with frameReady := false })

/-- Whether a host action is enabled (60_exceptions.md rule R262, 70_reset_and_hazards.md rules R321,
R322): a halted machine accepts none, `installRoms` happens once, Reset needs a cartridge. -/
def hostEnabled (act : HostAction) (s : State) : Bool :=
  !s.halted &&
    match act with
    | .installRoms _ _ => s.cart.isNone
    | .reset => s.cart.isSome
    | .nmiRequest | .frameRead => true

/-- The effect of a host action; one that is not enabled changes nothing (93 U17, log entry 13). -/
def hostAct (act : HostAction) (s : State) : State :=
  if hostEnabled act s then
    match act with
    | .installRoms prg chr =>
      match installRoms prg chr with
      | .ok c => s.setCart (some c)
      | .error _ => s
    | .reset => resetMachine s
    | .nmiRequest => s.setNmiPending true
    | .frameRead => (frameRead s).2
  else s

/-- The host actions of a boundary, in order. -/
def hostActs : List HostAction → State → State
  | [], s => s
  | act :: rest, s => hostActs rest (hostAct act s)

/-- What the host does at this boundary, and the state with the rest of the script (log entry 3). -/
def nextBoundary (s : State) : Boundary × State :=
  match s.inputs with
  | [] => (⟨[], false⟩, s)
  | b :: rest => (b, s.setInputs rest)

/-- The read-only state snapshot (10_state.md rule R40): registers, flags in `p`, the decoded last
opcode and the frame buffer. DESIGN CHOICE (log entry 18): the spec does not say what the decoded last
opcode is after an interrupt entry or a Reset, which execute none; here it is absent then. -/
structure Snapshot where
  a : Byte
  x : Byte
  y : Byte
  sp : Byte
  pc : Word
  p : Byte
  lastOpcode : Option (Mnemonic × Mode)
  frameBuffer : PixelBuffer
  deriving DecidableEq, Repr

/-- The snapshot of a state; the last opcode is that of the latest output (log entry 18). -/
def snapshot (s : State) : Snapshot :=
  ⟨s.a, s.x, s.y, s.sp, s.pc, s.p, s.out.opcode.map disassemble, s.vtu.frameBuffer⟩

end Sys2Proof.Machine
end

