-- ==== Sys2Proof/Machine/Video.lean ====
section
/-! DEFINITION. The advance of the video-timing unit (spec/60_exceptions.md rules R270 to R277). -/

namespace Sys2Proof.Machine

/-- The position after one more dot (60_exceptions.md rule R272, first half). -/
def nextPosition (scanline dot : Nat) : Nat × Nat :=
  if dot + 1 = Config.dotsPerScanline then
    if scanline + 1 = Config.scanlinesPerFrame then (0, 0) else (scanline + 1, 0)
  else (scanline, dot + 1)

/-- `VBlankStart()` (60_exceptions.md rule R274). -/
def vblankStart (s : State) : State :=
  let t := s.setVtu { s.vtu with vblank := true }
  if nmiEnable s.vtu then t.setNmiPending true else t

/-- `PreRender()` (60_exceptions.md rule R275). -/
def preRender (s : State) : State := s.setVtu { s.vtu with vblank := false, sprite0 := false }

/-- The graphics data `Composite` is given; no step is enabled without a cartridge. -/
def graphicsData (s : State) : Rom :=
  match s.cart with
  | some c => c.chr
  | none => ⟨0, []⟩

/-- `FrameEnd()` (60_exceptions.md rule R276). -/
def frameEnd (s : State) : State :=
  s.setVtu { s.vtu with
    frameBuffer := Config.composite s.vtu.ctrl s.vtu.mask s.vtu.scrollX s.vtu.scrollY s.vtu.oam
      s.vtu.vram (graphicsData s)
    frameReady := true }

/-- `Sprite0Draw()` (60_exceptions.md rule R277): at every position but (261, 1) the oracle may set
`sprite0`, and never clears it. -/
def sprite0Draw (s : State) : State :=
  if s.vtu.scanline = 261 ∧ s.vtu.dot = 1 then s
  else s.setVtu { s.vtu with
    sprite0 := s.vtu.sprite0 || Config.sprite0Oracle s.vtu.oracleDraws
    oracleDraws := s.vtu.oracleDraws + 1 }

/-- The event of the position just reached (60_exceptions.md rule R272). -/
def positionEvent (s : State) : State :=
  if s.vtu.scanline = 241 ∧ s.vtu.dot = 1 then vblankStart s
  else if s.vtu.scanline = 261 ∧ s.vtu.dot = 1 then preRender s
  else if s.vtu.scanline = 261 ∧ s.vtu.dot = 340 then frameEnd s
  else s

/-- `Tick()`: one dot, then the event of the new position (60_exceptions.md rule R272). -/
def tick (s : State) : State :=
  let pos := nextPosition s.vtu.scanline s.vtu.dot
  sprite0Draw (positionEvent (s.setVtu { s.vtu with scanline := pos.1, dot := pos.2 }))

/-- `n` ticks. -/
def ticks : Nat → State → State
  | 0, s => s
  | n + 1, s => ticks n (tick s)

/-- `AdvanceCycle()` `c` times: three ticks per processor cycle (60_exceptions.md rules R260, R271). -/
def advanceCycles (c : Nat) (s : State) : State := ticks (3 * c) s

end Sys2Proof.Machine
end

