-- ==== Sys2Proof/Machine/Step.lean ====
section
/-! DEFINITION. The machine step (spec/60_exceptions.md rule R260): the host's actions at the
boundary, then one interrupt entry or one whole instruction, then the video-timing unit's advance by
the cycles that step cost. -/

namespace Sys2Proof.Machine

/-- `CpuStep()` and the advance after it (30_encoding.md rule R90, 60_exceptions.md rule R260). An
illegal opcode costs 0 cycles, so nothing advances after it. -/
def cpuStep (s : State) : Host.Outcome State Fault Refusal :=
  let f := fetchBytes s
  match exec (instrOfBytes f.1) f.2 with
  | .next t => .next (advanceCycles t.out.cycles t)
  | .fault r => .fault r
  | .refused r => .refused r

/-- `MachineStep(irq_request)` (60_exceptions.md rule R260). It is enabled only on a machine that is
not halted, has its cartridge and was Reset (70_reset_and_hazards.md rule R322). -/
def machineStep (irqRequest : Bool) (s : State) : Host.Outcome State Fault Refusal :=
  if s.halted then .fault (.unknownOpcode s.faultOpcode)
  else if s.cart.isNone then .refused .noCartridge
  else if !s.resetDone then .refused .notReset
  else
    match serviceInterrupt irqRequest s with
    | some t => .next (advanceCycles t.out.cycles t)
    | none => cpuStep s

/-- One step: what the host does at this boundary (60_exceptions.md rule R262), then the machine
step. -/
def step (s : State) : Host.Outcome State Fault Refusal :=
  let b := nextBoundary s
  machineStep b.1.irqRequest (hostActs b.1.actions b.2)

/-- The state whose next step fetches and runs the instruction whose bits are `w` in
opcode_table.json's numbering: the host's load of a program (log entry 8). -/
def State.withFetchWord (s : State) (nbits w : Nat) : State :=
  placeInstruction (bytesOfTableWord nbits w) s

end Sys2Proof.Machine
end

