-- ==== Sys2Proof/Safety.lean ====
section
/-! DEFINITION. The terms in which claims are stated: the invariant of the machine, when a step is
enabled, and when a boundary is quiet. -/

namespace Sys2Proof.Machine

/-- Bit 5 of `P` is 1 and bit 4 is 0 (spec/10_state.md rules R18, R19). -/
def statusOk (p : Byte) : Bool := flagU p && !flagB p

/-- The position is on the frame: `scanline` 0 to 261, `dot` 0 to 340 (10_state.md rule R30). -/
def positionOk (u : Vtu) : Bool :=
  decide (u.scanline < Config.scanlinesPerFrame) && decide (u.dot < Config.dotsPerScanline)

/-- A cartridge of legal sizes whose blocks are canonical (20_memory.md rule R57). -/
def cartridgeOk (c : Cartridge) : Bool :=
  prgSizeOk c.prg.len && chrSizeOk c.chr.len &&
    Memory.wf c.prg.len c.prg.bytes && Memory.wf c.chr.len c.chr.bytes

/-- Every storage of the machine is in its canonical form and inside its size. -/
def State.memoryWf (s : State) : Bool :=
  Memory.wf Config.ramSize s.ram && Memory.wf Config.oamSize s.vtu.oam &&
    Memory.wf Config.vramSize s.vtu.vram

/-- Whatever cartridge is installed is legal. -/
def State.cartOk (s : State) : Bool :=
  match s.cart with
  | some c => cartridgeOk c
  | none => true

/-- The invariant of the machine. -/
def State.inv (s : State) : Bool :=
  statusOk s.p && positionOk s.vtu && s.memoryWf && s.cartOk

/-- A machine step is enabled: not halted, a cartridge installed, Reset applied (60_exceptions.md rule
R260, 70_reset_and_hazards.md rule R322). -/
def State.running (s : State) : Bool := !s.halted && s.cart.isSome && s.resetDone

/-- Nothing happens at the next boundary: no host action, no interrupt request, no pending NMI. -/
def State.quiet (s : State) : Bool :=
  !s.nmiPending && (nextBoundary s).1.actions.isEmpty && !(nextBoundary s).1.irqRequest

/-- The linear position of the video-timing unit in a frame, in dots (60_exceptions.md rule R273). -/
def Vtu.frameDot (u : Vtu) : Nat := u.scanline * Config.dotsPerScanline + u.dot

/-- Dots in a frame (60_exceptions.md rule R273). -/
abbrev frameDots : Nat := Config.scanlinesPerFrame * Config.dotsPerScanline

end Sys2Proof.Machine
end

