-- ==== Sys2Proof/WellFormed.lean ====
section
/-! DEFINITION. Which instruction terms the machine has: the addressing modes of each mnemonic
(spec/30_encoding.md rule R110, the listing by mnemonic) and the illegal bytes (rule R111). -/

namespace Sys2Proof

/-- The eight modes of the group-one mnemonics (30_encoding.md rule R110). -/
def groupOneModes : List Mode :=
  [.immediate, .zeroPage, .zeroPageX, .absolute, .absoluteX, .absoluteY, .indirectX, .indirectY]

/-- The modes of a read-modify-write mnemonic on memory (30_encoding.md rule R110). -/
def readModifyWriteModes : List Mode := [.zeroPage, .zeroPageX, .absolute, .absoluteX]

/-- The forms of each mnemonic, as 30_encoding.md rule R110 lists them by mnemonic. -/
def formsOf : Mnemonic → List Mode
  | .LDA | .AND | .ORA | .EOR | .ADC | .SBC | .CMP => groupOneModes
  | .LDX => [.immediate, .zeroPage, .zeroPageY, .absolute, .absoluteY]
  | .LDY => [.immediate, .zeroPage, .zeroPageX, .absolute, .absoluteX]
  | .STA => [.zeroPage, .zeroPageX, .absolute, .absoluteX, .absoluteY, .indirectX, .indirectY]
  | .STX => [.zeroPage, .zeroPageY, .absolute]
  | .STY => [.zeroPage, .zeroPageX, .absolute]
  | .BIT => [.zeroPage, .absolute]
  | .CPX | .CPY => [.immediate, .zeroPage, .absolute]
  | .INC | .DEC => readModifyWriteModes
  | .ASL | .LSR | .ROL | .ROR => .accumulator :: readModifyWriteModes
  | .JMP => [.absolute, .indirect]
  | .JSR => [.absolute]
  | .BCC | .BCS | .BEQ | .BNE | .BMI | .BPL | .BVC | .BVS => [.relative]
  | .TAX | .TAY | .TXA | .TYA | .TSX | .TXS | .PHA | .PHP | .PLA | .PLP => [.implicit]
  | .INX | .INY | .DEX | .DEY | .RTS => [.implicit]
  | .CLC | .SEC | .CLI | .SEI | .CLV | .CLD | .SED => [.implicit]
  | .BRK | .RTI | .NOP | .ILL => [.implicit]

/-- The 105 illegal opcode values, as 30_encoding.md rule R111 lists them. -/
def illegalOpcodes : List Byte :=
  [0x02, 0x03, 0x04, 0x07, 0x0B, 0x0C, 0x0F, 0x12, 0x13, 0x14, 0x17, 0x1A, 0x1B, 0x1C, 0x1F] ++
  [0x22, 0x23, 0x27, 0x2B, 0x2F, 0x32, 0x33, 0x34, 0x37, 0x3A, 0x3B, 0x3C, 0x3F, 0x42, 0x43] ++
  [0x44, 0x47, 0x4B, 0x4F, 0x52, 0x53, 0x54, 0x57, 0x5A, 0x5B, 0x5C, 0x5F, 0x62, 0x63, 0x64] ++
  [0x67, 0x6B, 0x6F, 0x72, 0x73, 0x74, 0x77, 0x7A, 0x7B, 0x7C, 0x7F, 0x80, 0x82, 0x83, 0x87] ++
  [0x89, 0x8B, 0x8F, 0x92, 0x93, 0x97, 0x9B, 0x9C, 0x9E, 0x9F, 0xA3, 0xA7, 0xAB, 0xAF, 0xB2] ++
  [0xB3, 0xB7, 0xBB, 0xBF, 0xC2, 0xC3, 0xC7, 0xCB, 0xCF, 0xD2, 0xD3, 0xD4, 0xD7, 0xDA, 0xDB] ++
  [0xDC, 0xDF, 0xE2, 0xE3, 0xE7, 0xEB, 0xEF, 0xF2, 0xF3, 0xF4, 0xF7, 0xFA, 0xFB, 0xFC, 0xFF]

/-- An instruction term the machine has: its mnemonic has a form in its mode, and an `ill` names an
illegal byte. -/
def Instr.wf (i : Instr) : Bool :=
  (formsOf i.mnemonic).contains i.mode &&
    match i with
    | .ill op => illegalOpcodes.contains op
    | _ => true

end Sys2Proof
end

