-- ==== Sys2Proof/Certificates/Slice0/Obligations.lean ====
section
/-! DEFINITION. The statements for the provers, and the terms they are written in: the encodings as
spec/40 to 49 list them, what a bus read and a store can change, and the flags of a status byte. -/

namespace Sys2Proof.Machine

/-! ## Terms -/

/-- One encoding in an "Encoding:" line of spec files 40 to 49: mode, opcode, length in bytes, base
cycles, and the `+` of the page-cross penalty. -/
structure Form where
  mode : Mode
  opcode : Byte
  length : Nat
  cycles : Nat
  plus : Bool
  deriving DecidableEq, Repr

/-- The encodings of LDA (rule R130). -/
def formsLda : List Form :=
  [⟨.immediate, 0xA9, 2, 2, false⟩, ⟨.zeroPage, 0xA5, 2, 3, false⟩,
   ⟨.zeroPageX, 0xB5, 2, 4, false⟩, ⟨.absolute, 0xAD, 3, 4, false⟩,
   ⟨.absoluteX, 0xBD, 3, 4, true⟩, ⟨.absoluteY, 0xB9, 3, 4, true⟩,
   ⟨.indirectX, 0xA1, 2, 6, false⟩, ⟨.indirectY, 0xB1, 2, 5, true⟩]

/-- The encodings of LDX (rule R131). -/
def formsLdx : List Form :=
  [⟨.immediate, 0xA2, 2, 2, false⟩, ⟨.zeroPage, 0xA6, 2, 3, false⟩,
   ⟨.zeroPageY, 0xB6, 2, 4, false⟩, ⟨.absolute, 0xAE, 3, 4, false⟩,
   ⟨.absoluteY, 0xBE, 3, 4, true⟩]

/-- The encodings of LDY (rule R132). -/
def formsLdy : List Form :=
  [⟨.immediate, 0xA0, 2, 2, false⟩, ⟨.zeroPage, 0xA4, 2, 3, false⟩,
   ⟨.zeroPageX, 0xB4, 2, 4, false⟩, ⟨.absolute, 0xAC, 3, 4, false⟩,
   ⟨.absoluteX, 0xBC, 3, 4, true⟩]

/-- The encodings of STA (rule R133). -/
def formsSta : List Form :=
  [⟨.zeroPage, 0x85, 2, 3, false⟩, ⟨.zeroPageX, 0x95, 2, 4, false⟩,
   ⟨.absolute, 0x8D, 3, 4, false⟩, ⟨.absoluteX, 0x9D, 3, 5, false⟩,
   ⟨.absoluteY, 0x99, 3, 5, false⟩, ⟨.indirectX, 0x81, 2, 6, false⟩,
   ⟨.indirectY, 0x91, 2, 6, false⟩]

/-- The encodings of STX (rule R134). -/
def formsStx : List Form :=
  [⟨.zeroPage, 0x86, 2, 3, false⟩, ⟨.zeroPageY, 0x96, 2, 4, false⟩,
   ⟨.absolute, 0x8E, 3, 4, false⟩]

/-- The encodings of STY (rule R135). -/
def formsSty : List Form :=
  [⟨.zeroPage, 0x84, 2, 3, false⟩, ⟨.zeroPageX, 0x94, 2, 4, false⟩,
   ⟨.absolute, 0x8C, 3, 4, false⟩]

/-- The encodings of AND (rule R155). -/
def formsAnd : List Form :=
  [⟨.immediate, 0x29, 2, 2, false⟩, ⟨.zeroPage, 0x25, 2, 3, false⟩,
   ⟨.zeroPageX, 0x35, 2, 4, false⟩, ⟨.absolute, 0x2D, 3, 4, false⟩,
   ⟨.absoluteX, 0x3D, 3, 4, true⟩, ⟨.absoluteY, 0x39, 3, 4, true⟩,
   ⟨.indirectX, 0x21, 2, 6, false⟩, ⟨.indirectY, 0x31, 2, 5, true⟩]

/-- The encodings of ORA (rule R156). -/
def formsOra : List Form :=
  [⟨.immediate, 0x09, 2, 2, false⟩, ⟨.zeroPage, 0x05, 2, 3, false⟩,
   ⟨.zeroPageX, 0x15, 2, 4, false⟩, ⟨.absolute, 0x0D, 3, 4, false⟩,
   ⟨.absoluteX, 0x1D, 3, 4, true⟩, ⟨.absoluteY, 0x19, 3, 4, true⟩,
   ⟨.indirectX, 0x01, 2, 6, false⟩, ⟨.indirectY, 0x11, 2, 5, true⟩]

/-- The encodings of EOR (rule R157). -/
def formsEor : List Form :=
  [⟨.immediate, 0x49, 2, 2, false⟩, ⟨.zeroPage, 0x45, 2, 3, false⟩,
   ⟨.zeroPageX, 0x55, 2, 4, false⟩, ⟨.absolute, 0x4D, 3, 4, false⟩,
   ⟨.absoluteX, 0x5D, 3, 4, true⟩, ⟨.absoluteY, 0x59, 3, 4, true⟩,
   ⟨.indirectX, 0x41, 2, 6, false⟩, ⟨.indirectY, 0x51, 2, 5, true⟩]

/-- The encodings of BIT (rule R158). -/
def formsBit : List Form :=
  [⟨.zeroPage, 0x24, 2, 3, false⟩, ⟨.absolute, 0x2C, 3, 4, false⟩]

/-- The encodings of ADC (rule R165). -/
def formsAdc : List Form :=
  [⟨.immediate, 0x69, 2, 2, false⟩, ⟨.zeroPage, 0x65, 2, 3, false⟩,
   ⟨.zeroPageX, 0x75, 2, 4, false⟩, ⟨.absolute, 0x6D, 3, 4, false⟩,
   ⟨.absoluteX, 0x7D, 3, 4, true⟩, ⟨.absoluteY, 0x79, 3, 4, true⟩,
   ⟨.indirectX, 0x61, 2, 6, false⟩, ⟨.indirectY, 0x71, 2, 5, true⟩]

/-- The encodings of SBC (rule R166). -/
def formsSbc : List Form :=
  [⟨.immediate, 0xE9, 2, 2, false⟩, ⟨.zeroPage, 0xE5, 2, 3, false⟩,
   ⟨.zeroPageX, 0xF5, 2, 4, false⟩, ⟨.absolute, 0xED, 3, 4, false⟩,
   ⟨.absoluteX, 0xFD, 3, 4, true⟩, ⟨.absoluteY, 0xF9, 3, 4, true⟩,
   ⟨.indirectX, 0xE1, 2, 6, false⟩, ⟨.indirectY, 0xF1, 2, 5, true⟩]

/-- The encodings of CMP (rule R167). -/
def formsCmp : List Form :=
  [⟨.immediate, 0xC9, 2, 2, false⟩, ⟨.zeroPage, 0xC5, 2, 3, false⟩,
   ⟨.zeroPageX, 0xD5, 2, 4, false⟩, ⟨.absolute, 0xCD, 3, 4, false⟩,
   ⟨.absoluteX, 0xDD, 3, 4, true⟩, ⟨.absoluteY, 0xD9, 3, 4, true⟩,
   ⟨.indirectX, 0xC1, 2, 6, false⟩, ⟨.indirectY, 0xD1, 2, 5, true⟩]

/-- The encodings of CPX (rule R168). -/
def formsCpx : List Form :=
  [⟨.immediate, 0xE0, 2, 2, false⟩, ⟨.zeroPage, 0xE4, 2, 3, false⟩,
   ⟨.absolute, 0xEC, 3, 4, false⟩]

/-- The encodings of CPY (rule R169). -/
def formsCpy : List Form :=
  [⟨.immediate, 0xC0, 2, 2, false⟩, ⟨.zeroPage, 0xC4, 2, 3, false⟩,
   ⟨.absolute, 0xCC, 3, 4, false⟩]

/-- The encodings of INC (rule R180). -/
def formsInc : List Form :=
  [⟨.zeroPage, 0xE6, 2, 5, false⟩, ⟨.zeroPageX, 0xF6, 2, 6, false⟩,
   ⟨.absolute, 0xEE, 3, 6, false⟩, ⟨.absoluteX, 0xFE, 3, 7, false⟩]

/-- The encodings of DEC (rule R181). -/
def formsDec : List Form :=
  [⟨.zeroPage, 0xC6, 2, 5, false⟩, ⟨.zeroPageX, 0xD6, 2, 6, false⟩,
   ⟨.absolute, 0xCE, 3, 6, false⟩, ⟨.absoluteX, 0xDE, 3, 7, false⟩]

/-- The encodings of ASL (rule R190). -/
def formsAsl : List Form :=
  [⟨.accumulator, 0x0A, 1, 2, false⟩, ⟨.zeroPage, 0x06, 2, 5, false⟩,
   ⟨.zeroPageX, 0x16, 2, 6, false⟩, ⟨.absolute, 0x0E, 3, 6, false⟩,
   ⟨.absoluteX, 0x1E, 3, 7, false⟩]

/-- The encodings of LSR (rule R191). -/
def formsLsr : List Form :=
  [⟨.accumulator, 0x4A, 1, 2, false⟩, ⟨.zeroPage, 0x46, 2, 5, false⟩,
   ⟨.zeroPageX, 0x56, 2, 6, false⟩, ⟨.absolute, 0x4E, 3, 6, false⟩,
   ⟨.absoluteX, 0x5E, 3, 7, false⟩]

/-- The encodings of ROL (rule R192). -/
def formsRol : List Form :=
  [⟨.accumulator, 0x2A, 1, 2, false⟩, ⟨.zeroPage, 0x26, 2, 5, false⟩,
   ⟨.zeroPageX, 0x36, 2, 6, false⟩, ⟨.absolute, 0x2E, 3, 6, false⟩,
   ⟨.absoluteX, 0x3E, 3, 7, false⟩]

/-- The encodings of ROR (rule R193). -/
def formsRor : List Form :=
  [⟨.accumulator, 0x6A, 1, 2, false⟩, ⟨.zeroPage, 0x66, 2, 5, false⟩,
   ⟨.zeroPageX, 0x76, 2, 6, false⟩, ⟨.absolute, 0x6E, 3, 6, false⟩,
   ⟨.absoluteX, 0x7E, 3, 7, false⟩]

/-- The encodings of JMP (rule R200). -/
def formsJmp : List Form :=
  [⟨.absolute, 0x4C, 3, 3, false⟩, ⟨.indirect, 0x6C, 3, 5, false⟩]

/-- The operand byte: what the instruction reads at its operand, after the pointer reads. -/
def operandByte (o : Operand) (s : State) : Byte := (readPlace (resolve o s).place (resolve o s).state).1

/-- The state after all bus reads of the operand. -/
def afterOperand (o : Operand) (s : State) : State := (readPlace (resolve o s).place (resolve o s).state).2

/-- One more cycle where the form carries `+` and the access crosses a page (30_encoding.md R107). -/
def crossCost (o : Operand) (s : State) (f : Form) : Nat :=
  if f.plus && (resolve o s).crossed then 1 else 0

/-- No further cycles. -/
def flatCost (_ : Form) : Nat := 0

/-- In each listed form: the instruction has the listed encoding, and `exec` ANSWERS A NEXT STATE that
reports the listed cost and opcode and of which `post` holds. -/
def Runs (i : Instr) (forms : List Form) (more : Form → Nat) (s : State) (post : State → Prop) : Prop :=
  ∀ f ∈ forms, f.mode = i.mode →
    encode i = f.opcode :: i.operandBytes ∧ (encode i).length = f.length ∧
      ∃ t, exec i s = .next t ∧ t.out = ⟨f.cycles + more f, some f.opcode⟩ ∧ post t

/-- The five registers. -/
def Regs (t : State) (a x y sp : Byte) (pc : Word) : Prop :=
  t.a = a ∧ t.x = x ∧ t.y = y ∧ t.sp = sp ∧ t.pc = pc

/-- The latch, the halt, the cartridge (both its blocks) and the host's script are as before. -/
def SameMachine (s t : State) : Prop :=
  t.nmiPending = s.nmiPending ∧ t.halted = s.halted ∧ t.faultOpcode = s.faultOpcode ∧
    t.cart = s.cart ∧ t.resetDone = s.resetDone ∧ t.inputs = s.inputs

/-- Every byte of `RAM` reads as before. -/
def SameRam (s t : State) : Prop := ∀ i, Memory.read t.ram i = Memory.read s.ram i

/-- The unit, with `OAM` and `VRAM`, and the bus draws are as before. -/
def SameUnit (s t : State) : Prop := t.vtu = s.vtu ∧ t.busDraws = s.busDraws

/-- Nothing but registers and status changed. -/
def RegistersOnly (s t : State) : Prop := SameMachine s t ∧ SameRam s t ∧ SameUnit s t

/-- Nothing but registers and status changed beyond what the bus reads of the operand change. -/
def ReadsOperand (o : Operand) (s t : State) : Prop :=
  SameMachine s t ∧ SameRam s t ∧ SameUnit (afterOperand o s) t

/-- Only the stack bytes listed, `RAM` index and value, were stored. -/
def PushesOnly (s t : State) (bytes : List (Nat × Byte)) : Prop :=
  SameMachine s t ∧ SameUnit s t ∧
    (∀ c ∈ bytes, Memory.read t.ram c.1 = c.2) ∧
    ∀ i, (∀ c ∈ bytes, i ≠ c.1) → Memory.read t.ram i = Memory.read s.ram i

/-- `t` is `u` after the store of `v` at `ea`: the byte behind `ea` in `RAM`, or the device register's
write, or nothing; every other byte of memory reads as before. -/
def StoresAt (ea : Word) (v : Byte) (u t : State) : Prop :=
  SameMachine u t ∧ t.busDraws = u.busDraws ∧
    match route ea with
    | .ram k => t.vtu = u.vtu ∧
        ∀ i, Memory.read t.ram i = if i = k then v else Memory.read u.ram i
    | .device r => t.vtu = devWrite r v u.vtu ∧ SameRam u t
    | .unmapped | .program _ => t.vtu = u.vtu ∧ SameRam u t

/-- `t` is `s` after a store of `v` at the operand, whose address is computed on the state after the
pointer reads; the operand itself is not read. -/
def StoresOperand (o : Operand) (v : Byte) (s t : State) : Prop :=
  match (resolve o s).place with
  | .bus ea => StoresAt ea v (resolve o s).state t
  | .accumulator | .fetched _ => False

/-- `t` is `s` after the operand was read once and the result `r` written to it once: to `A`, with no
access to memory, or to memory, with `A` as before. -/
def ModifiesOperand (o : Operand) (r : Byte) (s t : State) : Prop :=
  match (resolve o s).place with
  | .accumulator => t.a = r ∧ RegistersOnly s t
  | .bus ea => t.a = s.a ∧ StoresAt ea r (afterOperand o s) t
  | .fetched _ => False

/-- The eight bits of a status byte, `N` first. -/
def StatusIs (q : Byte) (n v u b d i z c : Bool) : Prop :=
  flagN q = n ∧ flagV q = v ∧ flagU q = u ∧ flagB q = b ∧ flagD q = d ∧ flagI q = i ∧ flagZ q = z ∧
    flagC q = c

/-- `q` is `p` with `Z` and `N` from `v` and every other bit as before. -/
def SetsZN (p q v : Byte) : Prop :=
  StatusIs q (v.getLsbD 7) (flagV p) (flagU p) (flagB p) (flagD p) (flagI p) (decide (v = 0)) (flagC p)

/-- `q` is `p` with `Z` and `N` from `v`, `C` as given and every other bit as before. -/
def SetsZNC (p q v : Byte) (c : Bool) : Prop :=
  StatusIs q (v.getLsbD 7) (flagV p) (flagU p) (flagB p) (flagD p) (flagI p) (decide (v = 0)) c

/-- The `RAM` index of the stack byte at `0x0100 + SP`. -/
def stackAt (sp : Byte) : Nat := 0x0100 + sp.toNat

/-- The stack byte at `0x0100 + SP`. -/
def stackByte (s : State) (sp : Byte) : Byte := Memory.read s.ram (stackAt sp)

/-- The program byte at a bus address of the program window (20_memory.md R55). -/
def programByte (c : Cartridge) (a : Nat) : Byte := Memory.read c.prg.bytes ((a - 0x8000) % c.prg.len)

/-- The little-endian word at a bus address of the program window. -/
def programWord (c : Cartridge) (a : Nat) : Word := mkWord (programByte c (a + 1)) (programByte c a)

/-- Whether a bus address lies in the windows whose reads are not plain: device registers or nothing. -/
def strange (a : Word) : Bool := decide (0x2000 ≤ a.toNat) && decide (a.toNat ≤ 0x7FFF)

/-- The operand of an instruction that has one. -/
def operandOfInstr : Instr → Option Operand
  | .lda o | .ldx o | .ldy o | .sta o | .stx o | .sty o | .and o | .ora o | .eor o | .bit o
  | .adc o | .sbc o | .cmp o | .cpx o | .cpy o | .inc o | .dec o | .asl o | .lsr o | .rol o
  | .ror o | .jmp o => some o
  | _ => none

/-- The offset and the condition of a branch, `none` for every other instruction (47_branch.md). -/
def branchOf (p : Byte) : Instr → Option (Byte × Bool)
  | .bcc d8 => some (d8, !flagC p)
  | .bcs d8 => some (d8, flagC p)
  | .beq d8 => some (d8, flagZ p)
  | .bne d8 => some (d8, !flagZ p)
  | .bmi d8 => some (d8, flagN p)
  | .bpl d8 => some (d8, !flagN p)
  | .bvc d8 => some (d8, !flagV p)
  | .bvs d8 => some (d8, flagV p)
  | _ => none

/-- Whether two addresses are on different 256-byte pages. -/
def otherPage (a b : Word) : Bool := decide (a.toNat / 256 ≠ b.toNat / 256)

/-- Inside vertical blanking: at or after (241, 1) and before (261, 1) (60_exceptions.md R278). -/
def inVblank (u : Vtu) : Bool :=
  decide (241 * 341 + 1 ≤ u.frameDot) && decide (u.frameDot < 261 * 341 + 1)

/-- The state in which a step finds the machine after the host's actions at the boundary. -/
def atBoundary (s : State) : State := hostActs (nextBoundary s).1.actions (nextBoundary s).2

end Sys2Proof.Machine

open Sys2Proof Sys2Proof.Machine

/-! ## Encoding -/

/-- The words written out in 30_encoding.md section 7, one per addressing mode, decode to the instruction
they stand for; 0x02, one of section 6, is illegal. -/
def Obligations.WrittenWordsDecode : Prop :=
  decode [0x18] = .ok (.clc, []) ∧
  decode [0x0A] = .ok (.asl .accumulator, []) ∧
  decode [0xA9, 0x10] = .ok (.lda (.immediate 0x10), []) ∧
  decode [0xA5, 0x10] = .ok (.lda (.zeroPage 0x10), []) ∧
  decode [0xB5, 0x10] = .ok (.lda (.zeroPageX 0x10), []) ∧
  decode [0xB6, 0x10] = .ok (.ldx (.zeroPageY 0x10), []) ∧
  decode [0xAD, 0x34, 0x12] = .ok (.lda (.absolute 0x1234), []) ∧
  decode [0xBD, 0x34, 0x12] = .ok (.lda (.absoluteX 0x1234), []) ∧
  decode [0xB9, 0x34, 0x12] = .ok (.lda (.absoluteY 0x1234), []) ∧
  decode [0x6C, 0x34, 0x12] = .ok (.jmp (.indirect 0x1234), []) ∧
  decode [0xA1, 0x10] = .ok (.lda (.indirectX 0x10), []) ∧
  decode [0xB1, 0x10] = .ok (.lda (.indirectY 0x10), []) ∧
  decode [0xD0, 0xF9] = .ok (.bne 0xF9, []) ∧
  decode [0x02] = .ok (.ill 0x02, [])

/-- 30_encoding.md: every well-formed instruction, at every operand, is read back from its bytes,
whatever follows them. -/
def Obligations.DecodeOfEncode : Prop :=
  ∀ (i : Instr) (rest : List Byte), i.wf = true → decode (encode i ++ rest) = .ok (i, rest)

/-- 30_encoding.md: each byte string has one reading. What the decoder accepts is well formed and its
bytes are the ones consumed. -/
def Obligations.EncodeOfDecode : Prop :=
  ∀ (bs rest : List Byte) (i : Instr), decode bs = .ok (i, rest) →
    i.wf = true ∧ bs = encode i ++ rest

/-- 30_encoding.md R92: the length by addressing mode, told from the opcode byte alone; an illegal
opcode has length 1, and exactly that many bytes are consumed. -/
def Obligations.LengthFromOpcode : Prop :=
  ∀ op lo hi : Byte, ∀ rest : List Byte,
    let m := (tableEntry op).mode
    let n := if m ∈ [Mode.implicit, .accumulator] then 1
      else if m ∈ [Mode.immediate, .zeroPage, .zeroPageX, .zeroPageY, .indirectX, .indirectY, .relative]
      then 2 else 3
    (n = 3 → m ∈ [Mode.absolute, .absoluteX, .absoluteY, .indirect]) ∧
      ((tableEntry op).mnemonic = .ILL → n = 1) ∧
      (∃ i, decode (op :: lo :: hi :: rest) = .ok (i, (op :: lo :: hi :: rest).drop n)) ∧
      ∀ s : State, (fetch8 s).1 = op → (fetchBytes s).1.length = n

/-- 30_encoding.md sections 4 and 6 (the illegal set and the penalties are the spec's decisions D1,
D33): the 105 bytes listed are exactly those without a documented instruction, each with the entry
given there; `page_cross_penalty` is true at exactly the 23 opcodes, `branch_penalty` at exactly 8. -/
def Obligations.TableExceptions : Prop :=
  illegalOpcodes.length = 105 ∧ illegalOpcodes.Nodup ∧ ∀ op : Byte,
    (illegalOpcodes.contains op = true → tableEntry op = ⟨op, .ILL, .implicit, 0, false, false⟩) ∧
    (illegalOpcodes.contains op = false →
      (tableEntry op).opcode = op ∧ (tableEntry op).mnemonic ≠ .ILL ∧ 2 ≤ (tableEntry op).baseCycles) ∧
    (tableEntry op).pageCrossPenalty =
      ([0x1D, 0x19, 0x11, 0x3D, 0x39, 0x31, 0x5D, 0x59, 0x51, 0x7D, 0x79, 0x71, 0xBD, 0xB9, 0xB1, 0xDD,
        0xD9, 0xD1, 0xFD, 0xF9, 0xF1, 0xBE, 0xBC] : List Byte).contains op ∧
    (tableEntry op).branchPenalty =
      ([0x10, 0x30, 0x50, 0x70, 0x90, 0xB0, 0xD0, 0xF0] : List Byte).contains op

/-- 30_encoding.md R114: `disassemble` gives the mnemonic and mode of the table, it agrees with the
decoder and with what a step executes at every opcode, and gives `ILL`, Implicit for an illegal one. -/
def Obligations.DisassembleAgrees : Prop :=
  ∀ op : Byte, disassemble op = ((tableEntry op).mnemonic, (tableEntry op).mode) ∧
    (∀ (bs rest : List Byte) (i : Instr), decode (op :: bs) = .ok (i, rest) →
      disassemble op = (i.mnemonic, i.mode)) ∧
    (∀ s : State, (fetch8 s).1 = op →
      disassemble op = ((instrOfBytes (fetchBytes s).1).mnemonic, (instrOfBytes (fetchBytes s).1).mode)) ∧
    (illegalOpcodes.contains op = true → disassemble op = (.ILL, .implicit))

/-- 30_encoding.md section 2, 20_memory.md sections 6 and 7: a fetch reads the bytes at `PC`, `PC + 1`,
`PC + 2`, as many as the instruction has, each through the bus in the state the earlier reads left; they
decode to the instruction the step runs. The state after it is the one the last read left with `PC` moved
past them modulo 65536, so nothing else changes but what those reads change. -/
def Obligations.FetchReadsOneInstruction : Prop :=
  ∀ s : State,
    let r0 := memRead s.pc s
    let r1 := memRead (s.pc + 1) r0.2
    let r2 := memRead (s.pc + 2) r1.2
    let n := (fetchBytes s).1.length
    decode (fetchBytes s).1 = .ok (instrOfBytes (fetchBytes s).1, []) ∧
    (fetch8 s).1 = r0.1 ∧ (fetchBytes s).1 = [r0.1, r1.1, r2.1].take n ∧
    (n = 1 → (fetchBytes s).2 = r0.2.setPc (s.pc + 1)) ∧
    (n = 2 → (fetchBytes s).2 = r1.2.setPc (s.pc + 2)) ∧
    (n = 3 → (fetchBytes s).2 = r2.2.setPc (s.pc + 3)) ∧ 1 ≤ n ∧ n ≤ 3 ∧
    (fetchBytes s).2.pc.toNat = (s.pc.toNat + n) % 65536 ∧
    SameMachine s (fetchBytes s).2 ∧ SameRam s (fetchBytes s).2 ∧ (fetchBytes s).2.out = s.out ∧
    Regs (fetchBytes s).2 s.a s.x s.y s.sp (fetchBytes s).2.pc ∧ (fetchBytes s).2.p = s.p

/-! ## Memory and the bus -/

/-- 20_memory.md section 3 (window bounds and sizes are the spec's decisions D3, D5): addresses up to
0x1FFF are `RAM` modulo 0x0800: a read changes nothing, a write is seen at every mirror and nowhere
else. Addresses from 0x8000 read `PRG` modulo its length; a block of one bank appears twice. -/
def Obligations.BackedWindows : Prop :=
  (∀ (a b : Word) (v : Byte) (s : State), a.toNat ≤ 0x1FFF → b.toNat ≤ 0x1FFF →
    memRead b s = (Memory.read s.ram (b.toNat % 0x0800), s) ∧
    (memRead b (memWrite a v s)).1 =
      (if a.toNat % 0x0800 = b.toNat % 0x0800 then v else (memRead b s).1) ∧
    SameMachine s (memWrite a v s) ∧ SameUnit s (memWrite a v s) ∧
    Regs (memWrite a v s) s.a s.x s.y s.sp s.pc ∧ (memWrite a v s).p = s.p) ∧
  ∀ (a : Word) (c : Cartridge) (s : State), s.cart = some c → 0x8000 ≤ a.toNat →
    memRead a s = (Memory.read c.prg.bytes ((a.toNat - 0x8000) % c.prg.len), s) ∧
    (c.prg.len = 0x4000 → a.toNat < 0xC000 → (memRead (a + 0x4000) s).1 = (memRead a s).1)

/-- 20_memory.md R56: a write to the program window changes no state. -/
def Obligations.ProgramWritesIgnored : Prop :=
  ∀ (a : Word) (v : Byte) (s : State), 0x8000 ≤ a.toNat → memWrite a v s = s

/-- 20_memory.md section 3 (the spec's decisions D3, D4, D36). Device registers repeat every 8 bytes, and
an access through a mirror has exactly the effect of the access to `0x2000 + r`. In the unmapped
window a write is dropped, and a read returns a free value, of which nothing is claimed, and changes
no state of the hardware (the draw counter is the model's own). -/
def Obligations.DeviceAndUnmappedWindows : Prop :=
  ∀ (a : Word) (v : Byte) (s : State),
    (0x2000 ≤ a.toNat → a.toNat ≤ 0x3FFF → ∀ r : Nat, r < 8 → a.toNat % 8 = r →
      memRead a s = memRead (0x2000 + BitVec.ofNat 16 r) s ∧
        memWrite a v s = memWrite (0x2000 + BitVec.ofNat 16 r) v s) ∧
    (0x4000 ≤ a.toNat → a.toNat ≤ 0x7FFF →
      memWrite a v s = s ∧ (memRead a s).2 = { s with busDraws := (memRead a s).2.busDraws })

/-- 20_memory.md section 6: no bus read, and no operand's reads together, changes more than `vblank`,
`write_latch`, `vram_addr` and the draw counter; a read of `RAM` or program data changes nothing. -/
def Obligations.BusReadFrame : Prop :=
  ∀ s : State, (∀ (a : Word), ∃ vb wl va n, (memRead a s).2 =
      { s with vtu := { s.vtu with vblank := vb, writeLatch := wl, vramAddr := va }, busDraws := n }) ∧
    (∀ (o : Operand), ∃ vb wl va n, afterOperand o s =
      { s with vtu := { s.vtu with vblank := vb, writeLatch := wl, vramAddr := va }, busDraws := n }) ∧
    (∀ (a : Word) (c : Cartridge), s.cart = some c → strange a = false → (memRead a s).2 = s)

/-! ## Addressing modes -/

/-- 30_encoding.md R94, R95, R96, R99, R100, R101, 45_shift.md R194. The operand of Accumulator is `A` and
that of Immediate is its operand byte (read once, by the fetch: log entry 10), with no bus access; in every
mode with an effective address it is the bus read there, after the pointer reads. ZeroPage, Absolute,
AbsoluteX, AbsoluteY: the operand bytes are `d8`, or `lo` then `hi`; the sum wraps modulo 65536; `crossed`
is a change of page. -/
def Obligations.DirectAddresses : Prop :=
  ∀ (d8 lo hi : Byte) (s : State),
    (resolve .accumulator s = ⟨.accumulator, false, s⟩ ∧ operandByte .accumulator s = s.a ∧
      afterOperand .accumulator s = s) ∧
    (resolve (.immediate d8) s = ⟨.fetched d8, false, s⟩ ∧ operandByte (.immediate d8) s = d8 ∧
      afterOperand (.immediate d8) s = s) ∧
    (∀ o : Operand, o.mode ≠ .accumulator → o.mode ≠ .immediate →
      ∃ ea, (resolve o s).place = .bus ea ∧ operandByte o s = (memRead ea (resolve o s).state).1 ∧
        afterOperand o s = (memRead ea (resolve o s).state).2) ∧
    (Operand.zeroPage d8).bytes = [d8] ∧
    (∃ ea, resolve (.zeroPage d8) s = ⟨.bus ea, false, s⟩ ∧ ea.toNat = d8.toNat) ∧
    ∃ w : Word, w.toNat = hi.toNat * 256 + lo.toNat ∧
      (Operand.absolute w).bytes = [lo, hi] ∧ (Operand.absoluteX w).bytes = [lo, hi] ∧
      (Operand.absoluteY w).bytes = [lo, hi] ∧
      (∃ ea, resolve (.absolute w) s = ⟨.bus ea, false, s⟩ ∧ ea.toNat = w.toNat) ∧
      (∃ ea, resolve (.absoluteX w) s = ⟨.bus ea, otherPage ea w, s⟩ ∧
        ea.toNat = (w.toNat + s.x.toNat) % 65536) ∧
      (∃ ea, resolve (.absoluteY w) s = ⟨.bus ea, otherPage ea w, s⟩ ∧
        ea.toNat = (w.toNat + s.y.toNat) % 65536)

/-- 30_encoding.md section 3 (the wraps are the spec's decisions D8, D9): zero-page indexing stays in page
0; the pointers of IndirectX and IndirectY take both bytes from page 0; JMP's Indirect pointer takes
its high byte from the page of its low byte, read second, with the side effects of both reads. -/
def Obligations.WrappedPointers : Prop :=
  ∀ (d8 : Byte) (w : Word) (s : State),
    (∃ ea, resolve (.zeroPageX d8) s = ⟨.bus ea, false, s⟩ ∧ ea.toNat = (d8.toNat + s.x.toNat) % 256) ∧
    (∃ ea, resolve (.zeroPageY d8) s = ⟨.bus ea, false, s⟩ ∧ ea.toNat = (d8.toNat + s.y.toNat) % 256) ∧
    (∃ ea, resolve (.indirectX d8) s = ⟨.bus ea, false, s⟩ ∧ ea.toNat =
      (Memory.read s.ram ((d8.toNat + s.x.toNat + 1) % 256)).toNat * 256 +
        (Memory.read s.ram ((d8.toNat + s.x.toNat) % 256)).toNat) ∧
    (∃ base ea : Word, resolve (.indirectY d8) s = ⟨.bus ea, otherPage ea base, s⟩ ∧
      base.toNat = (Memory.read s.ram ((d8.toNat + 1) % 256)).toNat * 256 +
        (Memory.read s.ram d8.toNat).toNat ∧
      ea.toNat = (base.toNat + s.y.toNat) % 65536) ∧
    ∃ hiAt ea : Word, hiAt.toNat = w.toNat / 256 * 256 + (w.toNat + 1) % 256 ∧
      resolve (.indirect w) s = ⟨.bus ea, false, (memRead hiAt (memRead w s).2).2⟩ ∧
      ea.toNat = (memRead hiAt (memRead w s).2).1.toNat * 256 + (memRead w s).1.toNat

/-! ## Loads and stores -/

/-- 40_load_store.md R130, R131, R132: LDA, LDX, LDY in every form load the operand byte, write `Z` and
`N` from it, and change nothing else beyond the bus reads. -/
def Obligations.Loads : Prop :=
  ∀ (o : Operand) (s : State),
    Runs (.lda o) formsLda (crossCost o s) s (fun t =>
      Regs t (operandByte o s) s.x s.y s.sp s.pc ∧ SetsZN s.p t.p (operandByte o s) ∧
        ReadsOperand o s t) ∧
    Runs (.ldx o) formsLdx (crossCost o s) s (fun t =>
      Regs t s.a (operandByte o s) s.y s.sp s.pc ∧ SetsZN s.p t.p (operandByte o s) ∧
        ReadsOperand o s t) ∧
    Runs (.ldy o) formsLdy (crossCost o s) s (fun t =>
      Regs t s.a s.x (operandByte o s) s.sp s.pc ∧ SetsZN s.p t.p (operandByte o s) ∧
        ReadsOperand o s t)

/-- 40_load_store.md R133, R134, R135: STA, STX, STY in every form store the register at the operand's
address and change no register and no flag. -/
def Obligations.Stores : Prop :=
  ∀ (o : Operand) (s : State),
    Runs (.sta o) formsSta flatCost s (fun t =>
      Regs t s.a s.x s.y s.sp s.pc ∧ t.p = s.p ∧ StoresOperand o s.a s t) ∧
    Runs (.stx o) formsStx flatCost s (fun t =>
      Regs t s.a s.x s.y s.sp s.pc ∧ t.p = s.p ∧ StoresOperand o s.x s t) ∧
    Runs (.sty o) formsSty flatCost s (fun t =>
      Regs t s.a s.x s.y s.sp s.pc ∧ t.p = s.p ∧ StoresOperand o s.y s t)

/-! ## Transfers and the stack -/

/-- 41_transfer_stack.md R140 to R145: the six transfers; TXS writes no flag. -/
def Obligations.Transfers : Prop :=
  ∀ s : State,
    Runs .tax [⟨.implicit, 0xAA, 1, 2, false⟩] flatCost s (fun t =>
      Regs t s.a s.a s.y s.sp s.pc ∧ SetsZN s.p t.p s.a ∧ RegistersOnly s t) ∧
    Runs .tay [⟨.implicit, 0xA8, 1, 2, false⟩] flatCost s (fun t =>
      Regs t s.a s.x s.a s.sp s.pc ∧ SetsZN s.p t.p s.a ∧ RegistersOnly s t) ∧
    Runs .txa [⟨.implicit, 0x8A, 1, 2, false⟩] flatCost s (fun t =>
      Regs t s.x s.x s.y s.sp s.pc ∧ SetsZN s.p t.p s.x ∧ RegistersOnly s t) ∧
    Runs .tya [⟨.implicit, 0x98, 1, 2, false⟩] flatCost s (fun t =>
      Regs t s.y s.x s.y s.sp s.pc ∧ SetsZN s.p t.p s.y ∧ RegistersOnly s t) ∧
    Runs .tsx [⟨.implicit, 0xBA, 1, 2, false⟩] flatCost s (fun t =>
      Regs t s.a s.sp s.y s.sp s.pc ∧ SetsZN s.p t.p s.sp ∧ RegistersOnly s t) ∧
    Runs .txs [⟨.implicit, 0x9A, 1, 2, false⟩] flatCost s (fun t =>
      Regs t s.a s.x s.y s.x s.pc ∧ t.p = s.p ∧ RegistersOnly s t)

/-- 10_state.md R15, R16: `Push` writes at `0x0100 + SP` then decrements `SP`, `Pop` increments `SP`
then reads there, both modulo 256, and `Pop` after `Push(b)` returns `b` with `SP` as before. -/
def Obligations.PushThenPop : Prop :=
  ∀ (b : Byte) (s : State),
    (push b s).sp.toNat = (s.sp.toNat + 255) % 256 ∧ PushesOnly s (push b s) [(stackAt s.sp, b)] ∧
    (pop s).2.sp.toNat = (s.sp.toNat + 1) % 256 ∧ (pop s).1 = stackByte s (pop s).2.sp ∧
    (pop s).2 = { s with sp := (pop s).2.sp } ∧
    (pop (push b s)).1 = b ∧ (pop (push b s)).2.sp = s.sp

/-- 41_transfer_stack.md R146, R148: PHA pushes `A`; PLA pulls it and writes `Z` and `N`. -/
def Obligations.AccumulatorOnStack : Prop :=
  ∀ s : State,
    Runs .pha [⟨.implicit, 0x48, 1, 3, false⟩] flatCost s (fun t =>
      Regs t s.a s.x s.y (s.sp - 1) s.pc ∧ t.p = s.p ∧ PushesOnly s t [(stackAt s.sp, s.a)]) ∧
    Runs .pla [⟨.implicit, 0x68, 1, 4, false⟩] flatCost s (fun t =>
      Regs t (stackByte s (s.sp + 1)) s.x s.y (s.sp + 1) s.pc ∧
        SetsZN s.p t.p (stackByte s (s.sp + 1)) ∧ RegistersOnly s t)

/-- 41_transfer_stack.md on PHP and PLP (bits 5 and 4 are the spec's decision D6): PHP pushes `P` with
both set; PLP loads six flags, sets bit 5 and clears bit 4. -/
def Obligations.PushPullStatus : Prop :=
  ∀ s : State,
    Runs .php [⟨.implicit, 0x08, 1, 3, false⟩] flatCost s (fun t =>
      Regs t s.a s.x s.y (s.sp - 1) s.pc ∧ t.p = s.p ∧ PushesOnly s t [(stackAt s.sp, s.p ||| 0x30)]) ∧
    Runs .plp [⟨.implicit, 0x28, 1, 4, false⟩] flatCost s (fun t =>
      let v := stackByte s (s.sp + 1)
      Regs t s.a s.x s.y (s.sp + 1) s.pc ∧
        StatusIs t.p (v.getLsbD 7) (v.getLsbD 6) true false (v.getLsbD 3) (v.getLsbD 2) (v.getLsbD 1)
          (v.getLsbD 0) ∧ RegistersOnly s t)

/-- 41_transfer_stack.md, 46_jump_call.md, the pairs PHA PLA, PHP PLP and JSR RTS: each restores `SP`;
the first restores `A`, the second `P` (its bits 5 and 4 being as they always are), and after a JSR
any state with the same `SP` and stack bytes returns to the instruction after it. -/
def Obligations.StackPairsRestore : Prop :=
  ∀ s : State,
    (∃ t u, exec .pha s = .next t ∧ exec .pla t = .next u ∧ u.a = s.a ∧ u.sp = s.sp) ∧
    (statusOk s.p = true →
      ∃ t u, exec .php s = .next t ∧ exec .plp t = .next u ∧ u.p = s.p ∧ u.sp = s.sp) ∧
    ∀ target : Word, ∃ t, exec (.jsr target) s = .next t ∧ t.pc = target ∧
      ∀ u : State, u.sp = t.sp → (∀ sp : Byte, stackByte u sp = stackByte t sp) →
        ∃ v, exec .rts u = .next v ∧ v.pc = s.pc ∧ v.sp = s.sp

/-! ## Logic and arithmetic -/

/-- 42_logic.md R155, R156, R157: AND, ORA, EOR write `A`, `Z` and `N`; `C` and `V` are unchanged. -/
def Obligations.Logic : Prop :=
  ∀ (o : Operand) (s : State),
    Runs (.and o) formsAnd (crossCost o s) s (fun t =>
      Regs t (s.a &&& operandByte o s) s.x s.y s.sp s.pc ∧ SetsZN s.p t.p (s.a &&& operandByte o s) ∧
        ReadsOperand o s t) ∧
    Runs (.ora o) formsOra (crossCost o s) s (fun t =>
      Regs t (s.a ||| operandByte o s) s.x s.y s.sp s.pc ∧ SetsZN s.p t.p (s.a ||| operandByte o s) ∧
        ReadsOperand o s t) ∧
    Runs (.eor o) formsEor (crossCost o s) s (fun t =>
      Regs t (s.a ^^^ operandByte o s) s.x s.y s.sp s.pc ∧ SetsZN s.p t.p (s.a ^^^ operandByte o s) ∧
        ReadsOperand o s t)

/-- 42_logic.md R158: BIT takes `Z` from `A & M`, `N` and `V` from bits 7 and 6 of the operand. -/
def Obligations.BitTest : Prop :=
  ∀ (o : Operand) (s : State), Runs (.bit o) formsBit (crossCost o s) s (fun t =>
    let m := operandByte o s
    Regs t s.a s.x s.y s.sp s.pc ∧
      StatusIs t.p (m.getLsbD 7) (m.getLsbD 6) (flagU s.p) (flagB s.p) (flagD s.p) (flagI s.p)
        (decide (s.a &&& m = 0)) (flagC s.p) ∧ ReadsOperand o s t)

/-- 43_arithmetic.md R165, R170: ADC is the 9-bit sum of `A`, the operand and `C`, in binary whatever
`P.D` holds. `C` is the unsigned overflow; `V` is that two operands of equal sign give the other sign,
which is that the signed sum is outside -128 to 127. -/
def Obligations.AddWithCarryRule : Prop :=
  ∀ (o : Operand) (s : State), Runs (.adc o) formsAdc (crossCost o s) s (fun t =>
    let m := operandByte o s
    let c := (flagC s.p).toNat
    let v := s.a.getLsbD 7 == m.getLsbD 7 && t.a.getLsbD 7 != s.a.getLsbD 7
    t.a.toNat = (s.a.toNat + m.toNat + c) % 256 ∧ Regs t t.a s.x s.y s.sp s.pc ∧
      StatusIs t.p (t.a.getLsbD 7) v (flagU s.p) (flagB s.p) (flagD s.p) (flagI s.p) (decide (t.a = 0))
        (decide (255 < s.a.toNat + m.toNat + c)) ∧
      v = decide (s.a.toInt + m.toInt + c < -128 ∨ 127 < s.a.toInt + m.toInt + c) ∧
      ReadsOperand o s t)

/-- 43_arithmetic.md on SBC (the subtrahend as memory plus borrow is the spec's decision D30):
`A - M - (1 - C)`; `C` is that no borrow was needed, `V` that the signed difference is out of range. -/
def Obligations.SubtractWithBorrow : Prop :=
  ∀ (o : Operand) (s : State), Runs (.sbc o) formsSbc (crossCost o s) s (fun t =>
    let m := operandByte o s
    let borrow := 1 - (flagC s.p).toNat
    t.a.toNat = (s.a.toNat + 512 - m.toNat - borrow) % 256 ∧ Regs t t.a s.x s.y s.sp s.pc ∧
      StatusIs t.p (t.a.getLsbD 7)
        (decide (s.a.toInt - m.toInt - borrow < -128 ∨ 127 < s.a.toInt - m.toInt - borrow))
        (flagU s.p) (flagB s.p) (flagD s.p) (flagI s.p) (decide (t.a = 0))
        (decide (m.toNat + borrow ≤ s.a.toNat)) ∧
      ReadsOperand o s t)

/-- 43_arithmetic.md on CMP, CPX, CPY (that `V` stays is the spec's decision D32): `C` is register at
least operand, `Z` their equality, `N` bit 7 of the difference; no register changes. -/
def Obligations.Compares : Prop :=
  ∀ (o : Operand) (s : State),
    let post := fun (r : Byte) (t : State) =>
      Regs t s.a s.x s.y s.sp s.pc ∧
        StatusIs t.p ((r - operandByte o s).getLsbD 7) (flagV s.p) (flagU s.p) (flagB s.p) (flagD s.p)
          (flagI s.p) (decide (r = operandByte o s)) (decide ((operandByte o s).toNat ≤ r.toNat)) ∧
        ReadsOperand o s t
    Runs (.cmp o) formsCmp (crossCost o s) s (post s.a) ∧
      Runs (.cpx o) formsCpx (crossCost o s) s (post s.x) ∧
      Runs (.cpy o) formsCpy (crossCost o s) s (post s.y)

/-- 44_incdec.md R180, R181: INC and DEC read the operand once and write it back once, one more or one
less modulo 256, with `Z` and `N` from the result whatever the write does. -/
def Obligations.IncDecMemory : Prop :=
  ∀ (o : Operand) (s : State),
    Runs (.inc o) formsInc flatCost s (fun t =>
      Regs t s.a s.x s.y s.sp s.pc ∧ SetsZN s.p t.p (operandByte o s + 1) ∧
        ModifiesOperand o (operandByte o s + 1) s t) ∧
    Runs (.dec o) formsDec flatCost s (fun t =>
      Regs t s.a s.x s.y s.sp s.pc ∧ SetsZN s.p t.p (operandByte o s - 1) ∧
        ModifiesOperand o (operandByte o s - 1) s t)

/-- 44_incdec.md R182 to R185: INX, INY, DEX, DEY. -/
def Obligations.IncDecRegisters : Prop :=
  ∀ s : State,
    Runs .inx [⟨.implicit, 0xE8, 1, 2, false⟩] flatCost s (fun t =>
      Regs t s.a (s.x + 1) s.y s.sp s.pc ∧ SetsZN s.p t.p (s.x + 1) ∧ RegistersOnly s t) ∧
    Runs .iny [⟨.implicit, 0xC8, 1, 2, false⟩] flatCost s (fun t =>
      Regs t s.a s.x (s.y + 1) s.sp s.pc ∧ SetsZN s.p t.p (s.y + 1) ∧ RegistersOnly s t) ∧
    Runs .dex [⟨.implicit, 0xCA, 1, 2, false⟩] flatCost s (fun t =>
      Regs t s.a (s.x - 1) s.y s.sp s.pc ∧ SetsZN s.p t.p (s.x - 1) ∧ RegistersOnly s t) ∧
    Runs .dey [⟨.implicit, 0x88, 1, 2, false⟩] flatCost s (fun t =>
      Regs t s.a s.x (s.y - 1) s.sp s.pc ∧ SetsZN s.p t.p (s.y - 1) ∧ RegistersOnly s t)

/-- 45_shift.md R190 to R193: ASL, LSR, ROL, ROR on `A` or on memory by one bit; `C` is the bit shifted
out, and the rotates shift the old `C` in. -/
def Obligations.ShiftsAndRotates : Prop :=
  ∀ (o : Operand) (s : State),
    let v := operandByte o s
    let c := (flagC s.p).toNat
    let post := fun (r : Byte) (out : Bool) (t : State) =>
      Regs t t.a s.x s.y s.sp s.pc ∧ SetsZNC s.p t.p r out ∧ ModifiesOperand o r s t
    Runs (.asl o) formsAsl flatCost s (post (BitVec.ofNat 8 (2 * v.toNat)) (v.getLsbD 7)) ∧
    Runs (.lsr o) formsLsr flatCost s (post (BitVec.ofNat 8 (v.toNat / 2)) (v.getLsbD 0)) ∧
    Runs (.rol o) formsRol flatCost s (post (BitVec.ofNat 8 (2 * v.toNat + c)) (v.getLsbD 7)) ∧
    Runs (.ror o) formsRor flatCost s (post (BitVec.ofNat 8 (v.toNat / 2 + 128 * c)) (v.getLsbD 0))

/-! ## Control flow -/

/-- 46_jump_call.md on JMP, JSR and RTS (the Indirect form's page wrap and the pushed address are the
spec's decisions D8, D40): JMP moves `PC` to the effective address; JSR pushes the address of its own
last byte, high byte first; RTS pops a word and adds one. -/
def Obligations.JumpsCallsReturns : Prop :=
  ∀ (o : Operand) (target : Word) (s : State),
    Runs (.jmp o) formsJmp flatCost s (fun t =>
      (resolve o s).place = .bus t.pc ∧ Regs t s.a s.x s.y s.sp t.pc ∧ t.p = s.p ∧
        SameMachine s t ∧ SameRam s t ∧ SameUnit (resolve o s).state t) ∧
    Runs (.jsr target) [⟨.absolute, 0x20, 3, 6, false⟩] flatCost s (fun t =>
      Regs t s.a s.x s.y (s.sp - 2) target ∧ t.p = s.p ∧
        PushesOnly s t [(stackAt s.sp, hiByte (s.pc - 1)), (stackAt (s.sp - 1), loByte (s.pc - 1))]) ∧
    Runs .rts [⟨.implicit, 0x60, 1, 6, false⟩] flatCost s (fun t =>
      Regs t s.a s.x s.y (s.sp + 2) t.pc ∧ t.p = s.p ∧ RegistersOnly s t ∧
        t.pc.toNat = ((stackByte s (s.sp + 2)).toNat * 256 + (stackByte s (s.sp + 1)).toNat + 1) % 65536)

/-- 47_branch.md (the pages compared are the spec's decision D37): taken, `PC` is the next instruction's
address plus the signed offset modulo 65536 and the cost is one more, two more to another page; not
taken, `PC` stays and nothing is added. No flag and no other register changes. -/
def Obligations.Branches : Prop :=
  ∀ (d8 : Byte) (s : State),
    let rule := fun (i : Instr) (op : Byte) (cond : Bool) =>
      ∃ target : Word, (target.toNat : Int) = ((s.pc.toNat : Int) + d8.toInt) % 65536 ∧
        Runs i [⟨.relative, op, 2, 2, false⟩]
          (fun _ => if cond then (if otherPage target s.pc then 2 else 1) else 0) s (fun t =>
            Regs t s.a s.x s.y s.sp (if cond then target else s.pc) ∧ t.p = s.p ∧ RegistersOnly s t)
    rule (.bcc d8) 0x90 (!flagC s.p) ∧ rule (.bcs d8) 0xB0 (flagC s.p) ∧
      rule (.beq d8) 0xF0 (flagZ s.p) ∧ rule (.bne d8) 0xD0 (!flagZ s.p) ∧
      rule (.bmi d8) 0x30 (flagN s.p) ∧ rule (.bpl d8) 0x10 (!flagN s.p) ∧
      rule (.bvc d8) 0x50 (!flagV s.p) ∧ rule (.bvs d8) 0x70 (flagV s.p)

/-! ## Flags and system instructions -/

/-- 48_flags.md R225, R226, R229: `P.C <- 0`, `P.C <- 1`, `P.V <- 0`. CLC, SEC, CLV write one flag. -/
def Obligations.CarryOverflowFlags : Prop :=
  ∀ s : State,
    Runs .clc [⟨.implicit, 0x18, 1, 2, false⟩] flatCost s (fun t =>
      Regs t s.a s.x s.y s.sp s.pc ∧ RegistersOnly s t ∧
        StatusIs t.p (flagN s.p) (flagV s.p) (flagU s.p) (flagB s.p) (flagD s.p) (flagI s.p) (flagZ s.p)
          false) ∧
    Runs .sec [⟨.implicit, 0x38, 1, 2, false⟩] flatCost s (fun t =>
      Regs t s.a s.x s.y s.sp s.pc ∧ RegistersOnly s t ∧
        StatusIs t.p (flagN s.p) (flagV s.p) (flagU s.p) (flagB s.p) (flagD s.p) (flagI s.p) (flagZ s.p)
          true) ∧
    Runs .clv [⟨.implicit, 0xB8, 1, 2, false⟩] flatCost s (fun t =>
      Regs t s.a s.x s.y s.sp s.pc ∧ RegistersOnly s t ∧
        StatusIs t.p (flagN s.p) false (flagU s.p) (flagB s.p) (flagD s.p) (flagI s.p) (flagZ s.p)
          (flagC s.p))

/-- 48_flags.md on CLI, SEI (effective at the next boundary, the spec's decision D14) and CLD, SED (the
bit is stored without effect, its decision D28). -/
def Obligations.InterruptDecimalFlags : Prop :=
  ∀ s : State,
    let post := fun (d i : Bool) (t : State) =>
      Regs t s.a s.x s.y s.sp s.pc ∧ RegistersOnly s t ∧
        StatusIs t.p (flagN s.p) (flagV s.p) (flagU s.p) (flagB s.p) d i (flagZ s.p) (flagC s.p)
    Runs .cli [⟨.implicit, 0x58, 1, 2, false⟩] flatCost s (post (flagD s.p) false) ∧
    Runs .sei [⟨.implicit, 0x78, 1, 2, false⟩] flatCost s (post (flagD s.p) true) ∧
    Runs .cld [⟨.implicit, 0xD8, 1, 2, false⟩] flatCost s (post false (flagI s.p)) ∧
    Runs .sed [⟨.implicit, 0xF8, 1, 2, false⟩] flatCost s (post true (flagI s.p))

/-- 49_system.md on BRK (the skipped byte and bit 4 are the spec's decisions D6, D7): with a cartridge
installed, `PC + 1` and `P` with bits 5 and 4 set are pushed, `I` is set, `PC` is the word at 0xFFFE. -/
def Obligations.BreakEntry : Prop :=
  ∀ (c : Cartridge) (s : State), s.cart = some c →
    Runs .brk [⟨.implicit, 0x00, 1, 7, false⟩] flatCost s (fun t =>
      Regs t s.a s.x s.y (s.sp - 3) (programWord c 0xFFFE) ∧
        StatusIs t.p (flagN s.p) (flagV s.p) (flagU s.p) (flagB s.p) (flagD s.p) true (flagZ s.p)
          (flagC s.p) ∧
        PushesOnly s t [(stackAt s.sp, hiByte (s.pc + 1)), (stackAt (s.sp - 1), loByte (s.pc + 1)),
          (stackAt (s.sp - 2), s.p ||| 0x30)])

/-- 49_system.md on RTI (bits 5 and 4 are the spec's decision D6): pops `P` as PLP does, then `PC`, low
byte first, with nothing added. -/
def Obligations.ReturnFromInterruptRule : Prop :=
  ∀ s : State, Runs .rti [⟨.implicit, 0x40, 1, 6, false⟩] flatCost s (fun t =>
    let v := stackByte s (s.sp + 1)
    Regs t s.a s.x s.y (s.sp + 3) (mkWord (stackByte s (s.sp + 3)) (stackByte s (s.sp + 2))) ∧
      StatusIs t.p (v.getLsbD 7) (v.getLsbD 6) true false (v.getLsbD 3) (v.getLsbD 2) (v.getLsbD 1)
        (v.getLsbD 0) ∧ RegistersOnly s t)

/-- 49_system.md R237: NOP changes nothing. -/
def Obligations.NoOperation : Prop :=
  ∀ s : State, Runs .nop [⟨.implicit, 0xEA, 1, 2, false⟩] flatCost s (fun t =>
    Regs t s.a s.x s.y s.sp s.pc ∧ t.p = s.p ∧ RegistersOnly s t)

/-- 49_system.md on ILL (the halt is the spec's decisions D1, D31; that it is a next state is log entry
2): the machine halts, records the opcode, costs 0 cycles and changes nothing else, and from then on
every step is the fault and the host can do nothing. -/
def Obligations.IllegalOpcodeHalts : Prop :=
  ∀ (op : Byte) (s : State), illegalOpcodes.contains op = true →
    encode (.ill op) = [op] ∧
    ∃ t, exec (.ill op) s = .next t ∧ t = { s with halted := true, faultOpcode := op, out := ⟨0, some op⟩ } ∧
      step t = .fault (.unknownOpcode op) ∧ ∀ act : HostAction, hostAct act t = t

/-! ## Every instruction -/

/-- 30_encoding.md sections 2 and 6: every well-formed instruction completes in every state. That an illegal
opcode answers a next state, the halted one, is the model's reading (log entry 2). A term the instruction
table has no row for (no bytes decode to one, log entry 15) is refused by name. -/
def Obligations.EveryInstructionCompletes : Prop :=
  ∀ (i : Instr) (s : State), (i.wf = true → ∃ t, exec i s = .next t) ∧
    (i.wf = false → exec i s = .refused .noSuchForm)

/-- 30_encoding.md section 4: the cost is the base, one more where the entry has the page penalty and the
access crosses, and for a taken branch one more, two where its target is on another page than the next
instruction (the pages compared are the spec's decision D37). -/
def Obligations.CycleCost : Prop :=
  ∀ (i : Instr) (e : TableEntry) (s t : State), i.entry = some e → exec i s = .next t →
    t.out.opcode = some e.opcode ∧ t.out.cycles = e.baseCycles +
      (match operandOfInstr i with
        | some o => if e.pageCrossPenalty && (resolve o s).crossed then 1 else 0
        | none => 0) +
      (match branchOf s.p i with
        | some (d8, true) =>
          if e.branchPenalty then 1 + (if otherPage (s.pc + sext16 d8) s.pc then 1 else 0) else 0
        | _ => 0)

/-- 10_state.md section 5, the table of flags written: no instruction changes a flag the table does not
give it, and bits 5 and 4 of `P` never change (in the states a run reaches, where they are 1 and 0). -/
def Obligations.FlagWriters : Prop :=
  ∀ (i : Instr) (s t : State), statusOk s.p = true → exec i s = .next t →
    let m := i.mnemonic
    let results : List Mnemonic := [.LDA, .LDX, .LDY, .TAX, .TAY, .TXA, .TYA, .TSX, .PLA, .AND, .ORA,
      .EOR, .INC, .DEC, .INX, .INY, .DEX, .DEY, .ADC, .SBC, .CMP, .CPX, .CPY, .ASL, .LSR, .ROL, .ROR,
      .BIT, .PLP, .RTI]
    (flagN t.p ≠ flagN s.p → m ∈ results) ∧
    (flagZ t.p ≠ flagZ s.p → m ∈ results) ∧
    (flagV t.p ≠ flagV s.p → m ∈ [Mnemonic.ADC, .SBC, .BIT, .CLV, .PLP, .RTI]) ∧
    (flagD t.p ≠ flagD s.p → m ∈ [Mnemonic.CLD, .SED, .PLP, .RTI]) ∧
    (flagI t.p ≠ flagI s.p → m ∈ [Mnemonic.CLI, .SEI, .PLP, .RTI, .BRK]) ∧
    (flagC t.p ≠ flagC s.p → m ∈ [Mnemonic.ADC, .SBC, .CMP, .CPX, .CPY, .ASL, .LSR, .ROL, .ROR, .CLC,
      .SEC, .PLP, .RTI]) ∧
    flagU t.p = flagU s.p ∧ flagB t.p = flagB s.p

/-- 10_state.md sections 2 to 4, the table of register use: who may change `A`, `X`, `Y`, `SP`; and an
instruction's own effect moves `PC` only in jumps, calls, returns, branches and BRK. -/
def Obligations.RegisterWriters : Prop :=
  ∀ (i : Instr) (s t : State), exec i s = .next t →
    let m := i.mnemonic
    (t.a ≠ s.a → m ∈ [Mnemonic.LDA, .PLA, .TXA, .TYA, .ADC, .SBC, .AND, .ORA, .EOR] ∨
      (m ∈ [Mnemonic.ASL, .LSR, .ROL, .ROR] ∧ i.mode = .accumulator)) ∧
    (t.x ≠ s.x → m ∈ [Mnemonic.LDX, .TAX, .TSX, .INX, .DEX]) ∧
    (t.y ≠ s.y → m ∈ [Mnemonic.LDY, .TAY, .INY, .DEY]) ∧
    (t.sp ≠ s.sp → m ∈ [Mnemonic.TXS, .PHA, .PHP, .PLA, .PLP, .JSR, .RTS, .RTI, .BRK]) ∧
    (t.pc ≠ s.pc → m ∈ [Mnemonic.JMP, .JSR, .RTS, .RTI, .BRK, .BCC, .BCS, .BEQ, .BNE, .BMI, .BPL, .BVC,
      .BVS])

/-- 20_memory.md section 6, 60_exceptions.md parts A and B: only stores, pushes and read-modify-writes
change `RAM`; no instruction changes the position, `sprite0`, the frame, the NMI latch, the cartridge
or the host's script; only an illegal opcode halts. -/
def Obligations.OtherStateWriters : Prop :=
  ∀ (i : Instr) (s t : State), exec i s = .next t →
    let m := i.mnemonic
    (t.ram ≠ s.ram → m ∈ [Mnemonic.STA, .STX, .STY, .PHA, .PHP, .JSR, .BRK, .INC, .DEC, .ASL, .LSR, .ROL,
      .ROR]) ∧
    (t.halted ≠ s.halted ∨ t.faultOpcode ≠ s.faultOpcode → m = .ILL) ∧
    t.nmiPending = s.nmiPending ∧ t.cart = s.cart ∧ t.resetDone = s.resetDone ∧ t.inputs = s.inputs ∧
    t.vtu.scanline = s.vtu.scanline ∧ t.vtu.dot = s.vtu.dot ∧ t.vtu.sprite0 = s.vtu.sprite0 ∧
    t.vtu.frameReady = s.vtu.frameReady ∧ t.vtu.frameBuffer = s.vtu.frameBuffer

/-! ## Interrupts, reset and the step -/

/-- 60_exceptions.md section A2 (vectors, pushed bits, the cost and loss of a masked request are the
spec's decisions D2, D6, D13, D34): a NonMaskable, an unmasked Maskable and a SoftwareBreak entry push
`PC`, high byte first, and `P`, set `I`, load `PC` from the vector, cost 7 and change nothing else; a
masked Maskable request changes nothing and costs 0. -/
def Obligations.InterruptEntry : Prop :=
  (∀ (c : Cartridge) (s : State) (kind : InterruptKind) (vec : Nat) (pushed : Byte), s.cart = some c →
    (kind, vec, pushed) ∈ [(InterruptKind.nonMaskable, 0xFFFA, s.p), (.maskable, 0xFFFE, s.p),
      (.softwareBreak, 0xFFFE, s.p ||| 0x30)] →
    (kind = .maskable → flagI s.p = false) →
    ∃ t, raiseInterrupt kind s = (7, t) ∧ Regs t s.a s.x s.y (s.sp - 3) (programWord c vec) ∧
      StatusIs t.p (flagN s.p) (flagV s.p) (flagU s.p) (flagB s.p) (flagD s.p) true (flagZ s.p)
        (flagC s.p) ∧
      PushesOnly s t [(stackAt s.sp, hiByte s.pc), (stackAt (s.sp - 1), loByte s.pc),
        (stackAt (s.sp - 2), pushed)]) ∧
  ∀ s : State, flagI s.p = true → raiseInterrupt .maskable s = (0, s)

/-- 60_exceptions.md section A5: RTI is the exact inverse of an entry. It restores `PC`, `SP` and `P`,
`I` included, as they were when the entry was taken. -/
def Obligations.ReturnUndoesEntry : Prop :=
  ∀ (c : Cartridge) (s : State) (kind : InterruptKind), s.cart = some c → statusOk s.p = true →
    kind ≠ .reset → (kind = .maskable → flagI s.p = false) →
    ∃ t, exec .rti (raiseInterrupt kind s).2 = .next t ∧ Regs t s.a s.x s.y s.sp s.pc ∧ t.p = s.p

/-- 60_exceptions.md section A4 (an entry as a step of its own is the spec's decision D12): NonMaskable
first, then an unmasked Maskable request, else one instruction; an entry clears the latch it serves,
outputs 7 cycles and no opcode, and the unit advances by those 7. -/
def Obligations.StepPriority : Prop :=
  ∀ s : State, (atBoundary s).running = true →
    let u := atBoundary s
    let irq := (nextBoundary s).1.irqRequest
    (u.nmiPending = true → step s = .next (advanceCycles 7
      ((raiseInterrupt .nonMaskable (u.setNmiPending false)).2.setOut ⟨7, none⟩))) ∧
    (u.nmiPending = false → irq = true → flagI u.p = false → step s = .next (advanceCycles 7
      ((raiseInterrupt .maskable u).2.setOut ⟨7, none⟩))) ∧
    (u.nmiPending = false → irq = false ∨ flagI u.p = true → step s = cpuStep u)

/-- 30_encoding.md section 2, 60_exceptions.md section A4: on a running machine with a quiet boundary,
where the bytes at `PC` decode to a well-formed instruction, a step is that instruction executed
after its bytes were fetched, then the unit advanced by the cycles it cost. -/
def Obligations.StepRunsDecoded : Prop :=
  ∀ (s : State) (i : Instr), s.running = true → s.quiet = true →
    decode (fetchBytes (nextBoundary s).2).1 = .ok (i, []) → i.wf = true →
    step s = match exec i (fetchBytes (nextBoundary s).2).2 with
      | .next t => .next (advanceCycles t.out.cycles t)
      | .fault r => .fault r
      | .refused r => .refused r

/-- 70_reset_and_hazards.md part A (what Reset touches is the spec's decision D15): with a cartridge
installed Reset sets `I`, loads `PC` from 0xFFFC and clears the latch and the unit; it pushes nothing
and leaves `A`, `X`, `Y`, `SP`, the other flags, every byte of memory and the frame buffer. -/
def Obligations.ResetEffect : Prop :=
  ∀ (c : Cartridge) (s : State), s.cart = some c → s.halted = false →
    let t := hostAct .reset s
    Regs t s.a s.x s.y s.sp (programWord c 0xFFFC) ∧
    StatusIs t.p (flagN s.p) (flagV s.p) (flagU s.p) (flagB s.p) (flagD s.p) true (flagZ s.p) (flagC s.p) ∧
    t.nmiPending = false ∧ t.halted = false ∧ t.ram = s.ram ∧ t.cart = s.cart ∧ t.inputs = s.inputs ∧
    t.out = ⟨7, none⟩ ∧ t.resetDone = true ∧
    t.vtu = { Vtu.construct with
      oam := s.vtu.oam, vram := s.vtu.vram, frameBuffer := s.vtu.frameBuffer
      oracleDraws := s.vtu.oracleDraws }

/-- 70_reset_and_hazards.md part A (values the source does not give are the spec's decision D16): after
construction, `installRoms` of blocks of legal sizes and one Reset the machine runs, with A = X = Y =
0, SP = 0xFE, P = 0x24 and `PC` the word at 0xFFFC. -/
def Obligations.PowerOn : Prop :=
  ∀ prg chr : List Byte, (prg.length = 16384 ∨ prg.length = 32768) →
    (0 < chr.length ∧ chr.length % 8192 = 0) →
    let t := hostActs [.installRoms prg chr, .reset] State.construct
    t.running = true ∧ t.inv = true ∧ t.a = 0 ∧ t.x = 0 ∧ t.y = 0 ∧ t.sp = 0xFE ∧ t.p = 0x24 ∧
      loByte t.pc = prg.getD (0x7FFC % prg.length) 0 ∧ hiByte t.pc = prg.getD (0x7FFD % prg.length) 0 ∧
      t.vtu.scanline = 0 ∧ t.vtu.dot = 0 ∧ t.nmiPending = false

/-- 20_memory.md section 3, 10_state.md section 8 (the sizes are the spec's decision D5): `installRoms`
succeeds for legal sizes only, the installed blocks hold the bytes given, and once installed the
cartridge never changes, whatever the program and the host do. -/
def Obligations.CartridgeInstalledOnce : Prop :=
  (∀ prg chr : List Byte,
    if (prg.length = 16384 ∨ prg.length = 32768) ∧ 0 < chr.length ∧ chr.length % 8192 = 0 then
      ∃ c, installRoms prg chr = .ok c ∧ cartridgeOk c = true ∧
        c.prg.len = prg.length ∧ c.chr.len = chr.length ∧
        (∀ i, i < prg.length → Memory.read c.prg.bytes i = prg.getD i 0) ∧
        ∀ i, i < chr.length → Memory.read c.chr.bytes i = chr.getD i 0
    else installRoms prg chr = .error .invalidRomSize) ∧
  ∀ (c : Cartridge) (s t : State), s.cart = some c → step s = .next t → t.cart = some c

/-- The invariant every step keeps: bits 5 and 4 of `P` read 1 and 0, the position stays on the frame,
every storage stays canonical and inside its size, a cartridge stays legal. -/
def Obligations.StepKeepsInvariant : Prop :=
  ∀ s t : State, s.inv = true → step s = .next t → t.inv = true

/-- The invariant holds right after reset, and that state is a Reset of a constructed machine with the
blank cartridge (the blank cartridge is the model's choice, log entry 8). -/
def Obligations.InvariantAtReset : Prop :=
  State.reset.inv = true ∧ State.reset.running = true ∧
    hostAct .reset (State.construct.setCart (some blankCartridge)) = State.reset

/-! ## The video-timing unit -/

/-- 60_exceptions.md section B (the ordering inside a tick is the spec's decision D17): from a position
on the frame, n ticks move n dots further modulo 89342; from (0, 0), c cycles lead to the position the
spec gives. -/
def Obligations.PositionAfterTicks : Prop :=
  (∀ (n : Nat) (s : State), positionOk s.vtu = true →
    positionOk (ticks n s).vtu = true ∧
      (ticks n s).vtu.frameDot = (s.vtu.frameDot + n) % 89342) ∧
  ∀ (c : Nat) (s : State), s.vtu.scanline = 0 → s.vtu.dot = 0 →
    (advanceCycles c s).vtu.scanline = 3 * c / 341 % 262 ∧ (advanceCycles c s).vtu.dot = 3 * c % 341

/-- 60_exceptions.md section B: the tick that reaches (241, 1) sets `vblank` and, with NMI enabled, the
latch; the tick that reaches (261, 1) clears `vblank` and `sprite0`; no other tick changes `vblank`, nor
the latch (the spec's decision D19), nor clears `sprite0` (its decision D24, the free value of log entry
5). -/
def Obligations.VblankEvents : Prop :=
  ∀ s : State,
    let u := (tick s).vtu
    let enabled := s.vtu.ctrl.getLsbD 7
    ((u.scanline, u.dot) = (241, 1) → u.vblank = true ∧ (tick s).nmiPending = (s.nmiPending || enabled)) ∧
    ((u.scanline, u.dot) = (261, 1) → u.vblank = false ∧ u.sprite0 = false) ∧
    ((u.scanline, u.dot) ≠ (241, 1) → (tick s).nmiPending = s.nmiPending) ∧
    ((u.scanline, u.dot) ≠ (241, 1) → (u.scanline, u.dot) ≠ (261, 1) → u.vblank = s.vtu.vblank) ∧
    ((u.scanline, u.dot) ≠ (261, 1) → s.vtu.sprite0 = true → u.sprite0 = true)

/-- 60_exceptions.md section B (which ends are included is the spec's decision D18): where no status read
comes between, `vblank` is 1 exactly from (241, 1) to (261, 0), however many ticks pass. -/
def Obligations.VblankWindow : Prop :=
  ∀ (n : Nat) (s : State), positionOk s.vtu = true → s.vtu.vblank = inVblank s.vtu →
    (ticks n s).vtu.vblank = inVblank (ticks n s).vtu

/-- 60_exceptions.md section B (the final dot and the flag are the spec's decisions D25, D41): the tick
that reaches (261, 340) composes the frame and sets `frame_ready`; no other tick changes either. -/
def Obligations.FrameEnd : Prop :=
  ∀ (c : Cartridge) (s : State), s.cart = some c →
    let u := (tick s).vtu
    let v := s.vtu
    ((u.scanline, u.dot) = (261, 340) → u.frameReady = true ∧ u.frameBuffer =
      Config.composite v.ctrl v.mask v.scrollX v.scrollY v.oam v.vram c.chr) ∧
    ((u.scanline, u.dot) ≠ (261, 340) → u.frameReady = v.frameReady ∧ u.frameBuffer = v.frameBuffer)

/-- 60_exceptions.md section B, 10_state.md section 9: an advance of the unit changes no register of the
processor, no byte of memory, and no device register but `vblank` and `sprite0`. -/
def Obligations.AdvanceKeepsProcessor : Prop :=
  ∀ (n : Nat) (s : State), ∃ (nmi vb sp fr : Bool) (sl d nd : Nat) (fb : PixelBuffer), ticks n s =
    { s with
      nmiPending := nmi,
      vtu := { s.vtu with
        scanline := sl, dot := d, vblank := vb, sprite0 := sp, frameReady := fr, frameBuffer := fb,
        oracleDraws := nd } }

/-! ## Device registers -/

/-- 60_exceptions.md section C on the OAM address, mask and data registers (the window and its mirrors are
the spec's decisions D3 and D20, the increment by bit 2 of `ctrl` its D20): what a store there does, and
that it changes nothing else. -/
def Obligations.DeviceStores : Prop :=
  ∀ (a : Word) (v : Byte) (s : State), 0x2000 ≤ a.toNat → a.toNat ≤ 0x3FFF →
    (a.toNat % 8 = 3 → memWrite a v s = s.setVtu { s.vtu with oamAddr := v }) ∧
    (a.toNat % 8 = 1 → memWrite a v s = s.setVtu { s.vtu with mask := v }) ∧
    (a.toNat % 8 = 7 → memWrite a v s = s.setVtu { s.vtu with
      vram := (vramWrite s.vtu.vramAddr v s.vtu).vram
      vramAddr := s.vtu.vramAddr + (if s.vtu.ctrl.getLsbD 2 then 32 else 1) })

/-- 60_exceptions.md section C on the control, status, OAM data, scroll and address registers (the spec's
decisions D20, D22, D26): what a store there does. -/
def Obligations.LatchedDeviceStores : Prop :=
  ∀ (a : Word) (v : Byte) (s : State), 0x2000 ≤ a.toNat → a.toNat ≤ 0x3FFF →
    let u := (memWrite a v s).vtu
    let w := s.vtu.vramAddr.toNat
    memWrite a v s = s.setVtu u ∧
    (a.toNat % 8 = 0 → u = { s.vtu with ctrl := v }) ∧
    (a.toNat % 8 = 2 → u = s.vtu) ∧
    (a.toNat % 8 = 4 → u = { s.vtu with oam := u.oam, oamAddr := s.vtu.oamAddr + 1 } ∧
      ∀ i, Memory.read u.oam i = if i = s.vtu.oamAddr.toNat then v else Memory.read s.vtu.oam i) ∧
    (a.toNat % 8 = 5 → s.vtu.writeLatch = false → u = { s.vtu with scrollX := v, writeLatch := true }) ∧
    (a.toNat % 8 = 5 → s.vtu.writeLatch = true → u = { s.vtu with scrollY := v, writeLatch := false }) ∧
    (a.toNat % 8 = 6 → s.vtu.writeLatch = false →
      u = { s.vtu with vramAddr := u.vramAddr, writeLatch := true } ∧
        u.vramAddr.toNat = v.toNat * 256 + w % 256) ∧
    (a.toNat % 8 = 6 → s.vtu.writeLatch = true →
      u = { s.vtu with vramAddr := u.vramAddr, writeLatch := false } ∧
        u.vramAddr.toNat = w / 256 * 256 + v.toNat)

/-- 60_exceptions.md section C on reads (the spec's decisions D4, D20, D21, D23, D26): the status read
shows `vblank` and `sprite0` over six bits of a free value and clears `vblank` and the latch; the OAM
data read does not increment; the data read returns the video memory at `vram_addr` as it was and then
advances it; the other five change nothing (the draw counter is the model's own). -/
def Obligations.DeviceReads : Prop :=
  ∀ (a : Word) (s : State), 0x2000 ≤ a.toNat → a.toNat ≤ 0x3FFF →
    let r := memRead a s
    (a.toNat % 8 = 2 → r.1.getLsbD 7 = s.vtu.vblank ∧ r.1.getLsbD 6 = s.vtu.sprite0 ∧
      r.2 = { s with vtu := { s.vtu with vblank := false, writeLatch := false }, busDraws := r.2.busDraws }) ∧
    (a.toNat % 8 = 4 → r = (Memory.read s.vtu.oam s.vtu.oamAddr.toNat, s)) ∧
    (a.toNat % 8 = 7 → r.1 = (vramRead s.vtu.vramAddr s).1) ∧
    (a.toNat % 8 = 7 → s.cart.isSome = true → r.2 = { s with vtu := { s.vtu with
      vramAddr := s.vtu.vramAddr + (if s.vtu.ctrl.getLsbD 2 then 32 else 1) } }) ∧
    (a.toNat % 8 ∈ [0, 1, 3, 5, 6] → r.2 = { s with busDraws := r.2.busDraws })

/-- 20_memory.md section 8 (the flat layout is the spec's decision D23): the data register reaches `CHR`
below 0x2000 and `VRAM` above, modulo 0x4000; a store there is read back, except in `CHR`, and changes
nothing of the unit but `VRAM`. -/
def Obligations.VideoMemory : Prop :=
  ∀ (c : Cartridge) (a b : Word) (v : Byte) (s : State), s.cart = some c →
    let m := a.toNat % 0x4000
    let n := b.toNat % 0x4000
    vramRead b s = (if n < 0x2000 then Memory.read c.chr.bytes n else Memory.read s.vtu.vram (n - 0x2000), s) ∧
    (vramRead b (s.setVtu (vramWrite a v s.vtu))).1 =
      (if m = n ∧ 0x2000 ≤ m then v else (vramRead b s).1) ∧
    ∀ u : Vtu, vramWrite a v u = { u with vram := (vramWrite a v u).vram } ∧
      (m < 0x2000 → vramWrite a v u = u)

/-! ## The host -/

/-- 60_exceptions.md section A4 on host actions (an NMI request and the frame flag are the spec's decisions
D35 and D25): on a machine that is not halted `NmiRequest` sets the latch, the frame read returns the
buffer and clears `frame_ready`, and neither changes anything else. Before a cartridge is installed, and
before the first Reset, a step is refused by name (log entry 12). -/
def Obligations.HostActionEffects : Prop :=
  (∀ s : State, s.halted = false →
    hostAct .nmiRequest s = { s with nmiPending := true } ∧
    frameRead s = (s.vtu.frameBuffer, { s with vtu := { s.vtu with frameReady := false } }) ∧
    hostAct .frameRead s = (frameRead s).2) ∧
  ∀ s : State, (atBoundary s).halted = false →
    ((atBoundary s).cart = none → step s = .refused .noCartridge) ∧
    ((atBoundary s).cart.isSome = true → (atBoundary s).resetDone = false →
      step s = .refused .notReset)
end

