-- ==== Sys2Proof/Laws/Decode.lean ====
section
/-! SUPPORT. The instruction table is total and consistent, what an instruction's row says, and the
byte-order helpers undo one another. -/

namespace Sys2Proof

theorem instructionTable_length : instructionTable.length = 256 := by decide +kernel

/-- Every row of the table stands at its own opcode. -/
theorem tableEntry_opcode (op : Byte) : (tableEntry op).opcode = op := by
  revert op; decide +kernel

theorem tableEntry_of_mem {e : TableEntry} (h : e ∈ instructionTable) : tableEntry e.opcode = e := by
  have all : instructionTable.all (fun e => tableEntry e.opcode == e) = true := by decide +kernel
  simpa using List.all_eq_true.mp all e h

theorem tableEntry_mem (op : Byte) : tableEntry op ∈ instructionTable := by
  unfold tableEntry
  rw [List.getD_eq_getElem _ _ (by rw [instructionTable_length]; exact op.isLt)]
  exact List.getElem_mem _

/-- What is known of the row of a mnemonic and a mode. -/
theorem rowOf_spec {mn : Mnemonic} {mode : Mode} {e : TableEntry} (h : rowOf mn mode = some e) :
    tableEntry e.opcode = e ∧ e.mnemonic = mn ∧ e.mode = mode := by
  have hp := List.find?_some h
  simp only [Bool.and_eq_true, decide_eq_true_eq] at hp
  exact ⟨tableEntry_of_mem (List.mem_of_find?_eq_some h), hp.1, hp.2⟩

/-- What is known of the row of an instruction. -/
theorem entry_spec {i : Instr} {e : TableEntry} (h : i.entry = some e) :
    tableEntry e.opcode = e ∧ e.mnemonic = i.mnemonic ∧ e.mode = i.mode := by
  cases i
  case ill op =>
    have illMode : ∀ op : Byte, (tableEntry op).mnemonic = .ILL → (tableEntry op).mode = .implicit := by
      decide +kernel
    simp only [Instr.entry] at h
    split at h
    · obtain rfl := Option.some.inj h
      exact ⟨by rw [tableEntry_opcode], ‹_›, illMode op ‹_›⟩
    · cases h
  all_goals exact rowOf_spec h

/-- No two rows but illegal ones share a mnemonic and a mode. -/
theorem tableEntry_unique {a b : Byte} (hm : (tableEntry a).mnemonic = (tableEntry b).mnemonic)
    (ho : (tableEntry a).mode = (tableEntry b).mode) (hi : (tableEntry a).mnemonic ≠ .ILL) : a = b := by
  revert a b
  have key : instructionTable.Pairwise (fun e f =>
      e.mnemonic = .ILL ∨ f.mnemonic = .ILL ∨ e.mnemonic ≠ f.mnemonic ∨ e.mode ≠ f.mode) := by
    decide +kernel
  intro a b hm ho hi
  have hlt : ∀ c : Byte, c.toNat < instructionTable.length := fun c => by
    rw [instructionTable_length]; exact c.isLt
  have get : ∀ c : Byte, tableEntry c = instructionTable[c.toNat]'(hlt c) := fun c => by
    unfold tableEntry; exact List.getD_eq_getElem _ _ (hlt c)
  have pw := List.pairwise_iff_getElem.mp key
  rcases Nat.lt_trichotomy a.toNat b.toNat with h | h | h
  · have := pw a.toNat b.toNat (hlt a) (hlt b) h
    rw [← get, ← get] at this
    rcases this with h1 | h1 | h1 | h1
    · exact absurd h1 hi
    · exact absurd (hm.trans h1) hi
    · exact absurd hm h1
    · exact absurd ho h1
  · exact BitVec.eq_of_toNat_eq h
  · have := pw b.toNat a.toNat (hlt b) (hlt a) h
    rw [← get, ← get] at this
    rcases this with h1 | h1 | h1 | h1
    · exact absurd (hm.trans h1) hi
    · exact absurd h1 hi
    · exact absurd hm.symm h1
    · exact absurd ho.symm h1

/-- A documented opcode's row is found by its mnemonic and mode. -/
theorem rowOf_tableEntry (op : Byte) (h : (tableEntry op).mnemonic ≠ .ILL) :
    rowOf (tableEntry op).mnemonic (tableEntry op).mode = some (tableEntry op) := by
  have ex : ∃ e, rowOf (tableEntry op).mnemonic (tableEntry op).mode = some e := by
    rw [← Option.isSome_iff_exists, rowOf, List.find?_isSome]
    exact ⟨tableEntry op, tableEntry_mem op, by simp⟩
  obtain ⟨e, he⟩ := ex
  obtain ⟨h1, h2, h3⟩ := rowOf_spec he
  rw [he, ← h1, tableEntry_unique (a := op) (b := e.opcode)] <;> simp [h1, h2, h3, h]

/-! ## Byte order -/

theorem mkWord_toNat (hi lo : Byte) : (mkWord hi lo).toNat = hi.toNat * 256 + lo.toNat := by
  simp only [mkWord, BitVec.toNat_append]
  rw [← Nat.shiftLeft_add_eq_or_of_lt lo.isLt, Nat.shiftLeft_eq]

theorem hiByte_toNat (w : Word) : (hiByte w).toNat = w.toNat / 256 := by
  have := w.isLt
  simp only [hiByte, BitVec.extractLsb'_toNat, Nat.shiftRight_eq_div_pow]
  omega

theorem loByte_toNat (w : Word) : (loByte w).toNat = w.toNat % 256 := by
  simp only [loByte, BitVec.extractLsb'_toNat, Nat.shiftRight_zero]

@[simp] theorem hiByte_mkWord (hi lo : Byte) : hiByte (mkWord hi lo) = hi := by
  have := lo.isLt
  apply BitVec.eq_of_toNat_eq
  rw [hiByte_toNat, mkWord_toNat]; omega

@[simp] theorem loByte_mkWord (hi lo : Byte) : loByte (mkWord hi lo) = lo := by
  have := lo.isLt
  apply BitVec.eq_of_toNat_eq
  rw [loByte_toNat, mkWord_toNat]; omega

@[simp] theorem mkWord_hiByte_loByte (w : Word) : mkWord (hiByte w) (loByte w) = w := by
  apply BitVec.eq_of_toNat_eq
  rw [mkWord_toNat, hiByte_toNat, loByte_toNat]; omega

@[simp] theorem zext16_toNat (b : Byte) : (zext16 b).toNat = b.toNat := by
  simp only [zext16, BitVec.toNat_setWidth]; omega

end Sys2Proof
end

