-- ==== Sys2Proof/Laws/Flags.lean ====
section
/-! SUPPORT. What each flag reads after each update of the status byte. -/

namespace Sys2Proof.Machine

/-- Reading a bit after setting one, for every bit of a byte. -/
theorem withBit_getLsbD (p : Byte) (b : Bool) (i j : Fin 8) :
    (withBit p i b).getLsbD j = if j = i then b else p.getLsbD j := by
  revert p b i j; decide +kernel

section Bits
variable (p v r m a : Byte) (b : Bool) (res : AddResult)

@[simp] theorem flagN_withN : flagN (withN p b) = b := by
  simpa [flagN, withN] using withBit_getLsbD p b 7 7
@[simp] theorem flagV_withN : flagV (withN p b) = flagV p := by
  simpa [flagV, withN] using withBit_getLsbD p b 7 6
@[simp] theorem flagU_withN : flagU (withN p b) = flagU p := by
  simpa [flagU, withN] using withBit_getLsbD p b 7 5
@[simp] theorem flagB_withN : flagB (withN p b) = flagB p := by
  simpa [flagB, withN] using withBit_getLsbD p b 7 4
@[simp] theorem flagD_withN : flagD (withN p b) = flagD p := by
  simpa [flagD, withN] using withBit_getLsbD p b 7 3
@[simp] theorem flagI_withN : flagI (withN p b) = flagI p := by
  simpa [flagI, withN] using withBit_getLsbD p b 7 2
@[simp] theorem flagZ_withN : flagZ (withN p b) = flagZ p := by
  simpa [flagZ, withN] using withBit_getLsbD p b 7 1
@[simp] theorem flagC_withN : flagC (withN p b) = flagC p := by
  simpa [flagC, withN] using withBit_getLsbD p b 7 0

@[simp] theorem flagN_withV : flagN (withV p b) = flagN p := by
  simpa [flagN, withV] using withBit_getLsbD p b 6 7
@[simp] theorem flagV_withV : flagV (withV p b) = b := by
  simpa [flagV, withV] using withBit_getLsbD p b 6 6
@[simp] theorem flagU_withV : flagU (withV p b) = flagU p := by
  simpa [flagU, withV] using withBit_getLsbD p b 6 5
@[simp] theorem flagB_withV : flagB (withV p b) = flagB p := by
  simpa [flagB, withV] using withBit_getLsbD p b 6 4
@[simp] theorem flagD_withV : flagD (withV p b) = flagD p := by
  simpa [flagD, withV] using withBit_getLsbD p b 6 3
@[simp] theorem flagI_withV : flagI (withV p b) = flagI p := by
  simpa [flagI, withV] using withBit_getLsbD p b 6 2
@[simp] theorem flagZ_withV : flagZ (withV p b) = flagZ p := by
  simpa [flagZ, withV] using withBit_getLsbD p b 6 1
@[simp] theorem flagC_withV : flagC (withV p b) = flagC p := by
  simpa [flagC, withV] using withBit_getLsbD p b 6 0

@[simp] theorem flagN_withD : flagN (withD p b) = flagN p := by
  simpa [flagN, withD] using withBit_getLsbD p b 3 7
@[simp] theorem flagV_withD : flagV (withD p b) = flagV p := by
  simpa [flagV, withD] using withBit_getLsbD p b 3 6
@[simp] theorem flagU_withD : flagU (withD p b) = flagU p := by
  simpa [flagU, withD] using withBit_getLsbD p b 3 5
@[simp] theorem flagB_withD : flagB (withD p b) = flagB p := by
  simpa [flagB, withD] using withBit_getLsbD p b 3 4
@[simp] theorem flagD_withD : flagD (withD p b) = b := by
  simpa [flagD, withD] using withBit_getLsbD p b 3 3
@[simp] theorem flagI_withD : flagI (withD p b) = flagI p := by
  simpa [flagI, withD] using withBit_getLsbD p b 3 2
@[simp] theorem flagZ_withD : flagZ (withD p b) = flagZ p := by
  simpa [flagZ, withD] using withBit_getLsbD p b 3 1
@[simp] theorem flagC_withD : flagC (withD p b) = flagC p := by
  simpa [flagC, withD] using withBit_getLsbD p b 3 0

@[simp] theorem flagN_withI : flagN (withI p b) = flagN p := by
  simpa [flagN, withI] using withBit_getLsbD p b 2 7
@[simp] theorem flagV_withI : flagV (withI p b) = flagV p := by
  simpa [flagV, withI] using withBit_getLsbD p b 2 6
@[simp] theorem flagU_withI : flagU (withI p b) = flagU p := by
  simpa [flagU, withI] using withBit_getLsbD p b 2 5
@[simp] theorem flagB_withI : flagB (withI p b) = flagB p := by
  simpa [flagB, withI] using withBit_getLsbD p b 2 4
@[simp] theorem flagD_withI : flagD (withI p b) = flagD p := by
  simpa [flagD, withI] using withBit_getLsbD p b 2 3
@[simp] theorem flagI_withI : flagI (withI p b) = b := by
  simpa [flagI, withI] using withBit_getLsbD p b 2 2
@[simp] theorem flagZ_withI : flagZ (withI p b) = flagZ p := by
  simpa [flagZ, withI] using withBit_getLsbD p b 2 1
@[simp] theorem flagC_withI : flagC (withI p b) = flagC p := by
  simpa [flagC, withI] using withBit_getLsbD p b 2 0

@[simp] theorem flagN_withZ : flagN (withZ p b) = flagN p := by
  simpa [flagN, withZ] using withBit_getLsbD p b 1 7
@[simp] theorem flagV_withZ : flagV (withZ p b) = flagV p := by
  simpa [flagV, withZ] using withBit_getLsbD p b 1 6
@[simp] theorem flagU_withZ : flagU (withZ p b) = flagU p := by
  simpa [flagU, withZ] using withBit_getLsbD p b 1 5
@[simp] theorem flagB_withZ : flagB (withZ p b) = flagB p := by
  simpa [flagB, withZ] using withBit_getLsbD p b 1 4
@[simp] theorem flagD_withZ : flagD (withZ p b) = flagD p := by
  simpa [flagD, withZ] using withBit_getLsbD p b 1 3
@[simp] theorem flagI_withZ : flagI (withZ p b) = flagI p := by
  simpa [flagI, withZ] using withBit_getLsbD p b 1 2
@[simp] theorem flagZ_withZ : flagZ (withZ p b) = b := by
  simpa [flagZ, withZ] using withBit_getLsbD p b 1 1
@[simp] theorem flagC_withZ : flagC (withZ p b) = flagC p := by
  simpa [flagC, withZ] using withBit_getLsbD p b 1 0

@[simp] theorem flagN_withC : flagN (withC p b) = flagN p := by
  simpa [flagN, withC] using withBit_getLsbD p b 0 7
@[simp] theorem flagV_withC : flagV (withC p b) = flagV p := by
  simpa [flagV, withC] using withBit_getLsbD p b 0 6
@[simp] theorem flagU_withC : flagU (withC p b) = flagU p := by
  simpa [flagU, withC] using withBit_getLsbD p b 0 5
@[simp] theorem flagB_withC : flagB (withC p b) = flagB p := by
  simpa [flagB, withC] using withBit_getLsbD p b 0 4
@[simp] theorem flagD_withC : flagD (withC p b) = flagD p := by
  simpa [flagD, withC] using withBit_getLsbD p b 0 3
@[simp] theorem flagI_withC : flagI (withC p b) = flagI p := by
  simpa [flagI, withC] using withBit_getLsbD p b 0 2
@[simp] theorem flagZ_withC : flagZ (withC p b) = flagZ p := by
  simpa [flagZ, withC] using withBit_getLsbD p b 0 1
@[simp] theorem flagC_withC : flagC (withC p b) = b := by
  simpa [flagC, withC] using withBit_getLsbD p b 0 0

@[simp] theorem flagN_statusZN : flagN (statusZN p v) = v.getLsbD 7 := by simp [statusZN]
@[simp] theorem flagV_statusZN : flagV (statusZN p v) = flagV p := by simp [statusZN]
@[simp] theorem flagU_statusZN : flagU (statusZN p v) = flagU p := by simp [statusZN]
@[simp] theorem flagB_statusZN : flagB (statusZN p v) = flagB p := by simp [statusZN]
@[simp] theorem flagD_statusZN : flagD (statusZN p v) = flagD p := by simp [statusZN]
@[simp] theorem flagI_statusZN : flagI (statusZN p v) = flagI p := by simp [statusZN]
@[simp] theorem flagZ_statusZN : flagZ (statusZN p v) = (v == 0) := by simp [statusZN]
@[simp] theorem flagC_statusZN : flagC (statusZN p v) = flagC p := by simp [statusZN]

@[simp] theorem flagN_statusAdd : flagN (statusAdd p res) = res.n := by simp [statusAdd]
@[simp] theorem flagV_statusAdd : flagV (statusAdd p res) = res.v := by simp [statusAdd]
@[simp] theorem flagU_statusAdd : flagU (statusAdd p res) = flagU p := by simp [statusAdd]
@[simp] theorem flagB_statusAdd : flagB (statusAdd p res) = flagB p := by simp [statusAdd]
@[simp] theorem flagD_statusAdd : flagD (statusAdd p res) = flagD p := by simp [statusAdd]
@[simp] theorem flagI_statusAdd : flagI (statusAdd p res) = flagI p := by simp [statusAdd]
@[simp] theorem flagZ_statusAdd : flagZ (statusAdd p res) = res.z := by simp [statusAdd]
@[simp] theorem flagC_statusAdd : flagC (statusAdd p res) = res.c := by simp [statusAdd]

@[simp] theorem flagN_statusCompare : flagN (statusCompare p r m) = (r - m).getLsbD 7 := by simp [statusCompare]
@[simp] theorem flagV_statusCompare : flagV (statusCompare p r m) = flagV p := by simp [statusCompare]
@[simp] theorem flagU_statusCompare : flagU (statusCompare p r m) = flagU p := by simp [statusCompare]
@[simp] theorem flagB_statusCompare : flagB (statusCompare p r m) = flagB p := by simp [statusCompare]
@[simp] theorem flagD_statusCompare : flagD (statusCompare p r m) = flagD p := by simp [statusCompare]
@[simp] theorem flagI_statusCompare : flagI (statusCompare p r m) = flagI p := by simp [statusCompare]
@[simp] theorem flagZ_statusCompare : flagZ (statusCompare p r m) = (r - m == 0) := by simp [statusCompare]
@[simp] theorem flagC_statusCompare : flagC (statusCompare p r m) = decide (m.toNat ≤ r.toNat) := by simp [statusCompare]

@[simp] theorem flagN_statusBit : flagN (statusBit p a m) = m.getLsbD 7 := by simp [statusBit]
@[simp] theorem flagV_statusBit : flagV (statusBit p a m) = m.getLsbD 6 := by simp [statusBit]
@[simp] theorem flagU_statusBit : flagU (statusBit p a m) = flagU p := by simp [statusBit]
@[simp] theorem flagB_statusBit : flagB (statusBit p a m) = flagB p := by simp [statusBit]
@[simp] theorem flagD_statusBit : flagD (statusBit p a m) = flagD p := by simp [statusBit]
@[simp] theorem flagI_statusBit : flagI (statusBit p a m) = flagI p := by simp [statusBit]
@[simp] theorem flagZ_statusBit : flagZ (statusBit p a m) = ((a &&& m) == 0) := by simp [statusBit]
@[simp] theorem flagC_statusBit : flagC (statusBit p a m) = flagC p := by simp [statusBit]

@[simp] theorem flagN_statusShift : flagN (statusShift p b r) = r.getLsbD 7 := by simp [statusShift]
@[simp] theorem flagV_statusShift : flagV (statusShift p b r) = flagV p := by simp [statusShift]
@[simp] theorem flagU_statusShift : flagU (statusShift p b r) = flagU p := by simp [statusShift]
@[simp] theorem flagB_statusShift : flagB (statusShift p b r) = flagB p := by simp [statusShift]
@[simp] theorem flagD_statusShift : flagD (statusShift p b r) = flagD p := by simp [statusShift]
@[simp] theorem flagI_statusShift : flagI (statusShift p b r) = flagI p := by simp [statusShift]
@[simp] theorem flagZ_statusShift : flagZ (statusShift p b r) = (r == 0) := by simp [statusShift]
@[simp] theorem flagC_statusShift : flagC (statusShift p b r) = b := by simp [statusShift]

@[simp] theorem flagN_pushedStatus : flagN (pushedStatus p) = flagN p := by
  simp [flagN, pushedStatus]
@[simp] theorem flagV_pushedStatus : flagV (pushedStatus p) = flagV p := by
  simp [flagV, pushedStatus]
@[simp] theorem flagU_pushedStatus : flagU (pushedStatus p) = true := by
  simp [flagU, pushedStatus]
@[simp] theorem flagB_pushedStatus : flagB (pushedStatus p) = true := by
  simp [flagB, pushedStatus]
@[simp] theorem flagD_pushedStatus : flagD (pushedStatus p) = flagD p := by
  simp [flagD, pushedStatus]
@[simp] theorem flagI_pushedStatus : flagI (pushedStatus p) = flagI p := by
  simp [flagI, pushedStatus]
@[simp] theorem flagZ_pushedStatus : flagZ (pushedStatus p) = flagZ p := by
  simp [flagZ, pushedStatus]
@[simp] theorem flagC_pushedStatus : flagC (pushedStatus p) = flagC p := by
  simp [flagC, pushedStatus]

@[simp] theorem flagN_loadedStatus : flagN (loadedStatus v) = flagN v := by
  simp [flagN, loadedStatus]
@[simp] theorem flagV_loadedStatus : flagV (loadedStatus v) = flagV v := by
  simp [flagV, loadedStatus]
@[simp] theorem flagU_loadedStatus : flagU (loadedStatus v) = true := by
  simp [flagU, loadedStatus]
@[simp] theorem flagB_loadedStatus : flagB (loadedStatus v) = false := by
  simp [flagB, loadedStatus]
@[simp] theorem flagD_loadedStatus : flagD (loadedStatus v) = flagD v := by
  simp [flagD, loadedStatus]
@[simp] theorem flagI_loadedStatus : flagI (loadedStatus v) = flagI v := by
  simp [flagI, loadedStatus]
@[simp] theorem flagZ_loadedStatus : flagZ (loadedStatus v) = flagZ v := by
  simp [flagZ, loadedStatus]
@[simp] theorem flagC_loadedStatus : flagC (loadedStatus v) = flagC v := by
  simp [flagC, loadedStatus]

end Bits

/-- A status byte is known by its eight flags. -/
theorem status_ext {p q : Byte} (hN : flagN p = flagN q) (hV : flagV p = flagV q)
    (hU : flagU p = flagU q) (hB : flagB p = flagB q) (hD : flagD p = flagD q)
    (hI : flagI p = flagI q) (hZ : flagZ p = flagZ q) (hC : flagC p = flagC q) : p = q := by
  apply BitVec.eq_of_getLsbD_eq
  intro i hi
  have : i = 0 ∨ i = 1 ∨ i = 2 ∨ i = 3 ∨ i = 4 ∨ i = 5 ∨ i = 6 ∨ i = 7 := by omega
  rcases this with rfl | rfl | rfl | rfl | rfl | rfl | rfl | rfl <;> assumption

section SetZN
variable (s : State) (v : Byte)


@[simp] theorem setZN_a : (s.setZN v).a = s.a := rfl
@[simp] theorem setZN_x : (s.setZN v).x = s.x := rfl
@[simp] theorem setZN_y : (s.setZN v).y = s.y := rfl
@[simp] theorem setZN_sp : (s.setZN v).sp = s.sp := rfl
@[simp] theorem setZN_pc : (s.setZN v).pc = s.pc := rfl
@[simp] theorem setZN_nmiPending : (s.setZN v).nmiPending = s.nmiPending := rfl
@[simp] theorem setZN_halted : (s.setZN v).halted = s.halted := rfl
@[simp] theorem setZN_faultOpcode : (s.setZN v).faultOpcode = s.faultOpcode := rfl
@[simp] theorem setZN_ram : (s.setZN v).ram = s.ram := rfl
@[simp] theorem setZN_cart : (s.setZN v).cart = s.cart := rfl
@[simp] theorem setZN_vtu : (s.setZN v).vtu = s.vtu := rfl
@[simp] theorem setZN_busDraws : (s.setZN v).busDraws = s.busDraws := rfl
@[simp] theorem setZN_resetDone : (s.setZN v).resetDone = s.resetDone := rfl
@[simp] theorem setZN_inputs : (s.setZN v).inputs = s.inputs := rfl
@[simp] theorem setZN_out : (s.setZN v).out = s.out := rfl
@[simp] theorem setZN_p : (s.setZN v).p = statusZN s.p v := rfl

end SetZN

end Sys2Proof.Machine
end

