-- ==== Sys2Proof/Laws/Memory.lean ====
section
/-! SUPPORT. Byte storage: a read after a write, and that every operation keeps the canonical form.
No lemma about reads needs the canonical form. -/

namespace Sys2Proof

@[simp] theorem Memory.read_nil (a : Nat) : Memory.read [] a = Config.unlistedByte := rfl

theorem Memory.read_erase_same (m : Memory) (a : Nat) :
    Memory.read (Memory.erase m a) a = Config.unlistedByte := by
  induction m with
  | nil => rfl
  | cons c rest ih =>
    obtain ⟨k, v⟩ := c
    by_cases h : k = a <;> simp [Memory.erase, Memory.read, h, ih]

theorem Memory.read_erase_other (m : Memory) {a b : Nat} (h : b ≠ a) :
    Memory.read (Memory.erase m a) b = Memory.read m b := by
  induction m with
  | nil => rfl
  | cons c rest ih =>
    obtain ⟨k, v⟩ := c
    by_cases hk : k = a
    · subst hk; simp [Memory.erase, Memory.read, ih, Ne.symm h]
    · simp [Memory.erase, Memory.read, hk, ih]

theorem Memory.read_insert (m : Memory) (a b : Nat) (v : Byte)
    (hm : ∀ c ∈ m, c.1 ≠ a) :
    Memory.read (Memory.insert m a v) b = if b = a then v else Memory.read m b := by
  induction m with
  | nil =>
    by_cases h : b = a
    · simp [Memory.insert, Memory.read, h]
    · simp [Memory.insert, Memory.read, h, Ne.symm h]
  | cons c rest ih =>
    obtain ⟨k, w⟩ := c
    have hka : k ≠ a := hm (k, w) (by simp)
    have ih' := ih (fun c hc => hm c (by simp [hc]))
    by_cases hlt : a < k
    · by_cases h : b = a
      · simp [Memory.insert, Memory.read, hlt, h]
      · simp [Memory.insert, Memory.read, hlt, h, Ne.symm h]
    · by_cases hb : k = b
      · subst hb; simp [Memory.insert, Memory.read, hlt, hka]
      · simp [Memory.insert, Memory.read, hlt, hb, ih']

theorem Memory.erase_absent (m : Memory) (a : Nat) : ∀ c ∈ Memory.erase m a, c.1 ≠ a := by
  induction m with
  | nil => simp [Memory.erase]
  | cons c rest ih =>
    obtain ⟨k, v⟩ := c
    by_cases hk : k = a
    · simpa [Memory.erase, hk] using ih
    · intro c hc
      simp only [Memory.erase, hk, if_false, List.mem_cons] at hc
      rcases hc with rfl | hc
      · exact hk
      · exact ih c hc

/-- What a write does to every read. -/
theorem Memory.read_write (m : Memory) (a b : Nat) (v : Byte) :
    Memory.read (Memory.write m a v) b = if b = a then v else Memory.read m b := by
  unfold Memory.write
  by_cases hv : v = Config.unlistedByte
  · by_cases h : b = a
    · subst h; simp [hv, Memory.read_erase_same]
    · simp [hv, h, Memory.read_erase_other m h]
  · rw [if_neg hv, Memory.read_insert _ _ _ _ (Memory.erase_absent m a)]
    by_cases h : b = a
    · simp [h]
    · simp [h, Memory.read_erase_other m h]

@[simp] theorem Memory.read_write_same (m : Memory) (a : Nat) (v : Byte) :
    Memory.read (Memory.write m a v) a = v := by simp [Memory.read_write]

theorem Memory.read_write_other (m : Memory) {a b : Nat} (v : Byte) (h : b ≠ a) :
    Memory.read (Memory.write m a v) b = Memory.read m b := by simp [Memory.read_write, h]

/-! ## The canonical form -/

theorem Memory.wfFrom_mono {lo lo' size : Nat} (h : lo' ≤ lo) (m : Memory)
    (hm : Memory.wfFrom lo size m = true) : Memory.wfFrom lo' size m = true := by
  cases m with
  | nil => rfl
  | cons c rest =>
    obtain ⟨k, v⟩ := c
    simp only [Memory.wfFrom, Bool.and_eq_true, decide_eq_true_eq] at hm ⊢
    exact ⟨⟨⟨by omega, hm.1.1.2⟩, hm.1.2⟩, hm.2⟩

theorem Memory.wfFrom_erase {lo size : Nat} (m : Memory) (a : Nat)
    (hm : Memory.wfFrom lo size m = true) : Memory.wfFrom lo size (Memory.erase m a) = true := by
  induction m generalizing lo with
  | nil => rfl
  | cons c rest ih =>
    obtain ⟨k, v⟩ := c
    simp only [Memory.wfFrom, Bool.and_eq_true, decide_eq_true_eq] at hm
    by_cases hk : k = a
    · simp only [Memory.erase, hk, if_true]
      exact Memory.wfFrom_mono (by omega) _ (ih hm.2)
    · simp only [Memory.erase, hk, if_false, Memory.wfFrom, Bool.and_eq_true, decide_eq_true_eq]
      exact ⟨hm.1, ih hm.2⟩

theorem Memory.wfFrom_insert {lo size : Nat} (m : Memory) {a : Nat} {v : Byte}
    (hlo : lo ≤ a) (ha : a < size) (hv : v ≠ Config.unlistedByte) (hm : ∀ c ∈ m, c.1 ≠ a)
    (h : Memory.wfFrom lo size m = true) : Memory.wfFrom lo size (Memory.insert m a v) = true := by
  induction m generalizing lo with
  | nil => simp [Memory.insert, Memory.wfFrom, hlo, ha, hv]
  | cons c rest ih =>
    obtain ⟨k, w⟩ := c
    have hka : k ≠ a := hm (k, w) (by simp)
    simp only [Memory.wfFrom, Bool.and_eq_true, decide_eq_true_eq] at h
    by_cases hlt : a < k
    · simp only [Memory.insert, hlt, if_true, Memory.wfFrom, Bool.and_eq_true, decide_eq_true_eq,
        bne_iff_ne, ne_eq]
      exact ⟨⟨⟨hlo, ha⟩, hv⟩, ⟨⟨by omega, h.1.1.2⟩, by simpa using h.1.2⟩, h.2⟩
    · simp only [Memory.insert, hlt, if_false, Memory.wfFrom, Bool.and_eq_true, decide_eq_true_eq]
      exact ⟨h.1, ih (by omega) (fun c hc => hm c (by simp [hc])) h.2⟩

/-- A write keeps the canonical form. -/
theorem Memory.wf_write {size : Nat} {m : Memory} {a : Nat} (v : Byte) (ha : a < size)
    (hm : Memory.wf size m = true) : Memory.wf size (Memory.write m a v) = true := by
  unfold Memory.write
  by_cases hv : v = Config.unlistedByte
  · rw [if_pos hv]; exact Memory.wfFrom_erase m a hm
  · rw [if_neg hv]
    exact Memory.wfFrom_insert _ (Nat.zero_le _) ha hv (Memory.erase_absent m a)
      (Memory.wfFrom_erase m a hm)

theorem Memory.read_ofBytes (start : Nat) (bs : List Byte) (i : Nat) :
    Memory.read (Memory.ofBytes start bs) i =
      if start ≤ i then bs.getD (i - start) Config.unlistedByte else Config.unlistedByte := by
  induction bs generalizing start with
  | nil => simp [Memory.ofBytes]
  | cons v rest ih =>
    by_cases hv : v = Config.unlistedByte
    · simp only [Memory.ofBytes, hv, if_true, ih]
      rcases Nat.lt_trichotomy i start with h | h | h
      · rw [if_neg (by omega), if_neg (by omega)]
      · subst h; simp
      · rw [if_pos (by omega), if_pos (by omega), show i - start = (i - (start + 1)) + 1 by omega]
        simp
    · simp only [Memory.ofBytes, hv, if_false, Memory.read, ih]
      rcases Nat.lt_trichotomy i start with h | h | h
      · rw [if_neg (by omega), if_neg (by omega), if_neg (by omega)]
      · subst h; simp
      · rw [if_neg (by omega), if_pos (by omega), if_pos (by omega),
          show i - start = (i - (start + 1)) + 1 by omega]
        simp

theorem Memory.wfFrom_ofBytes (start size : Nat) (bs : List Byte) (h : start + bs.length ≤ size) :
    Memory.wfFrom start size (Memory.ofBytes start bs) = true := by
  induction bs generalizing start with
  | nil => rfl
  | cons v rest ih =>
    simp only [List.length_cons] at h
    by_cases hv : v = Config.unlistedByte
    · simp only [Memory.ofBytes, hv, if_true]
      exact Memory.wfFrom_mono (Nat.le_succ _) _ (ih (start + 1) (by omega))
    · simp only [Memory.ofBytes, hv, if_false, Memory.wfFrom, Bool.and_eq_true, decide_eq_true_eq,
        bne_iff_ne]
      exact ⟨⟨⟨le_refl _, by omega⟩, hv⟩, ih (start + 1) (by omega)⟩

/-- Below its first listed index a canonical storage reads as unlisted. -/
theorem Memory.read_below {lo size : Nat} {m : Memory} (hm : Memory.wfFrom lo size m = true) {i : Nat}
    (h : i < lo) : Memory.read m i = Config.unlistedByte := by
  induction m generalizing lo with
  | nil => rfl
  | cons c rest ih =>
    obtain ⟨k, v⟩ := c
    simp only [Memory.wfFrom, Bool.and_eq_true, decide_eq_true_eq] at hm
    rw [Memory.read, if_neg (by omega)]
    exact ih hm.2 (by omega)

/-- Two canonical storages that read alike are the same data. -/
theorem Memory.eq_of_read_eq {lo size : Nat} {m m' : Memory} (hm : Memory.wfFrom lo size m = true)
    (hm' : Memory.wfFrom lo size m' = true) (h : ∀ i, Memory.read m i = Memory.read m' i) : m = m' := by
  have listed : ∀ {lo : Nat} {k : Nat} {v : Byte} {rest : Memory},
      Memory.wfFrom lo size ((k, v) :: rest) = true →
        v ≠ Config.unlistedByte ∧ Memory.wfFrom (k + 1) size rest = true := by
    intro lo k v rest hw
    simp only [Memory.wfFrom, Bool.and_eq_true, bne_iff_ne] at hw
    exact ⟨hw.1.2, hw.2⟩
  induction m generalizing lo m' with
  | nil =>
    cases m' with
    | nil => rfl
    | cons c rest =>
      obtain ⟨k, v⟩ := c
      exact absurd (by simpa [Memory.read] using (h k).symm) (listed hm').1
  | cons c rest ih =>
    obtain ⟨k, v⟩ := c
    cases m' with
    | nil => exact absurd (by simpa [Memory.read] using h k) (listed hm).1
    | cons c' rest' =>
      obtain ⟨k', v'⟩ := c'
      obtain ⟨hv, hr⟩ := listed hm
      obtain ⟨hv', hr'⟩ := listed hm'
      have hk : k = k' := by
        rcases Nat.lt_trichotomy k k' with hlt | heq | hgt
        · have := h k
          rw [Memory.read, if_pos rfl, Memory.read, if_neg (by omega),
            Memory.read_below hr' (by omega)] at this
          exact absurd this hv
        · exact heq
        · have := h k'
          rw [Memory.read, if_neg (by omega), Memory.read_below hr (by omega), Memory.read,
            if_pos rfl] at this
          exact absurd this.symm hv'
      subst hk
      have hvv : v = v' := by simpa [Memory.read] using h k
      subst hvv
      congr 1
      refine ih hr hr' fun i => ?_
      by_cases hi : k = i
      · rw [Memory.read_below hr (by omega), Memory.read_below hr' (by omega)]
      · simpa [Memory.read, hi] using h i

end Sys2Proof
end

