-- ==== Sys2Proof/Laws/State.lean ====
section
/-! SUPPORT. One lemma per field per update of `State`, each true by definition. -/

namespace Sys2Proof.Machine

variable (s : State)

section SetA
variable (v : Byte)

@[simp] theorem setA_a : (s.setA v).a = v := rfl
@[simp] theorem setA_x : (s.setA v).x = s.x := rfl
@[simp] theorem setA_y : (s.setA v).y = s.y := rfl
@[simp] theorem setA_sp : (s.setA v).sp = s.sp := rfl
@[simp] theorem setA_pc : (s.setA v).pc = s.pc := rfl
@[simp] theorem setA_p : (s.setA v).p = s.p := rfl
@[simp] theorem setA_nmiPending : (s.setA v).nmiPending = s.nmiPending := rfl
@[simp] theorem setA_halted : (s.setA v).halted = s.halted := rfl
@[simp] theorem setA_faultOpcode : (s.setA v).faultOpcode = s.faultOpcode := rfl
@[simp] theorem setA_ram : (s.setA v).ram = s.ram := rfl
@[simp] theorem setA_cart : (s.setA v).cart = s.cart := rfl
@[simp] theorem setA_vtu : (s.setA v).vtu = s.vtu := rfl
@[simp] theorem setA_busDraws : (s.setA v).busDraws = s.busDraws := rfl
@[simp] theorem setA_resetDone : (s.setA v).resetDone = s.resetDone := rfl
@[simp] theorem setA_inputs : (s.setA v).inputs = s.inputs := rfl
@[simp] theorem setA_out : (s.setA v).out = s.out := rfl

end SetA

section SetX
variable (v : Byte)

@[simp] theorem setX_a : (s.setX v).a = s.a := rfl
@[simp] theorem setX_x : (s.setX v).x = v := rfl
@[simp] theorem setX_y : (s.setX v).y = s.y := rfl
@[simp] theorem setX_sp : (s.setX v).sp = s.sp := rfl
@[simp] theorem setX_pc : (s.setX v).pc = s.pc := rfl
@[simp] theorem setX_p : (s.setX v).p = s.p := rfl
@[simp] theorem setX_nmiPending : (s.setX v).nmiPending = s.nmiPending := rfl
@[simp] theorem setX_halted : (s.setX v).halted = s.halted := rfl
@[simp] theorem setX_faultOpcode : (s.setX v).faultOpcode = s.faultOpcode := rfl
@[simp] theorem setX_ram : (s.setX v).ram = s.ram := rfl
@[simp] theorem setX_cart : (s.setX v).cart = s.cart := rfl
@[simp] theorem setX_vtu : (s.setX v).vtu = s.vtu := rfl
@[simp] theorem setX_busDraws : (s.setX v).busDraws = s.busDraws := rfl
@[simp] theorem setX_resetDone : (s.setX v).resetDone = s.resetDone := rfl
@[simp] theorem setX_inputs : (s.setX v).inputs = s.inputs := rfl
@[simp] theorem setX_out : (s.setX v).out = s.out := rfl

end SetX

section SetY
variable (v : Byte)

@[simp] theorem setY_a : (s.setY v).a = s.a := rfl
@[simp] theorem setY_x : (s.setY v).x = s.x := rfl
@[simp] theorem setY_y : (s.setY v).y = v := rfl
@[simp] theorem setY_sp : (s.setY v).sp = s.sp := rfl
@[simp] theorem setY_pc : (s.setY v).pc = s.pc := rfl
@[simp] theorem setY_p : (s.setY v).p = s.p := rfl
@[simp] theorem setY_nmiPending : (s.setY v).nmiPending = s.nmiPending := rfl
@[simp] theorem setY_halted : (s.setY v).halted = s.halted := rfl
@[simp] theorem setY_faultOpcode : (s.setY v).faultOpcode = s.faultOpcode := rfl
@[simp] theorem setY_ram : (s.setY v).ram = s.ram := rfl
@[simp] theorem setY_cart : (s.setY v).cart = s.cart := rfl
@[simp] theorem setY_vtu : (s.setY v).vtu = s.vtu := rfl
@[simp] theorem setY_busDraws : (s.setY v).busDraws = s.busDraws := rfl
@[simp] theorem setY_resetDone : (s.setY v).resetDone = s.resetDone := rfl
@[simp] theorem setY_inputs : (s.setY v).inputs = s.inputs := rfl
@[simp] theorem setY_out : (s.setY v).out = s.out := rfl

end SetY

section SetSp
variable (v : Byte)

@[simp] theorem setSp_a : (s.setSp v).a = s.a := rfl
@[simp] theorem setSp_x : (s.setSp v).x = s.x := rfl
@[simp] theorem setSp_y : (s.setSp v).y = s.y := rfl
@[simp] theorem setSp_sp : (s.setSp v).sp = v := rfl
@[simp] theorem setSp_pc : (s.setSp v).pc = s.pc := rfl
@[simp] theorem setSp_p : (s.setSp v).p = s.p := rfl
@[simp] theorem setSp_nmiPending : (s.setSp v).nmiPending = s.nmiPending := rfl
@[simp] theorem setSp_halted : (s.setSp v).halted = s.halted := rfl
@[simp] theorem setSp_faultOpcode : (s.setSp v).faultOpcode = s.faultOpcode := rfl
@[simp] theorem setSp_ram : (s.setSp v).ram = s.ram := rfl
@[simp] theorem setSp_cart : (s.setSp v).cart = s.cart := rfl
@[simp] theorem setSp_vtu : (s.setSp v).vtu = s.vtu := rfl
@[simp] theorem setSp_busDraws : (s.setSp v).busDraws = s.busDraws := rfl
@[simp] theorem setSp_resetDone : (s.setSp v).resetDone = s.resetDone := rfl
@[simp] theorem setSp_inputs : (s.setSp v).inputs = s.inputs := rfl
@[simp] theorem setSp_out : (s.setSp v).out = s.out := rfl

end SetSp

section SetPc
variable (v : Word)

@[simp] theorem setPc_a : (s.setPc v).a = s.a := rfl
@[simp] theorem setPc_x : (s.setPc v).x = s.x := rfl
@[simp] theorem setPc_y : (s.setPc v).y = s.y := rfl
@[simp] theorem setPc_sp : (s.setPc v).sp = s.sp := rfl
@[simp] theorem setPc_pc : (s.setPc v).pc = v := rfl
@[simp] theorem setPc_p : (s.setPc v).p = s.p := rfl
@[simp] theorem setPc_nmiPending : (s.setPc v).nmiPending = s.nmiPending := rfl
@[simp] theorem setPc_halted : (s.setPc v).halted = s.halted := rfl
@[simp] theorem setPc_faultOpcode : (s.setPc v).faultOpcode = s.faultOpcode := rfl
@[simp] theorem setPc_ram : (s.setPc v).ram = s.ram := rfl
@[simp] theorem setPc_cart : (s.setPc v).cart = s.cart := rfl
@[simp] theorem setPc_vtu : (s.setPc v).vtu = s.vtu := rfl
@[simp] theorem setPc_busDraws : (s.setPc v).busDraws = s.busDraws := rfl
@[simp] theorem setPc_resetDone : (s.setPc v).resetDone = s.resetDone := rfl
@[simp] theorem setPc_inputs : (s.setPc v).inputs = s.inputs := rfl
@[simp] theorem setPc_out : (s.setPc v).out = s.out := rfl

end SetPc

section SetP
variable (v : Byte)

@[simp] theorem setP_a : (s.setP v).a = s.a := rfl
@[simp] theorem setP_x : (s.setP v).x = s.x := rfl
@[simp] theorem setP_y : (s.setP v).y = s.y := rfl
@[simp] theorem setP_sp : (s.setP v).sp = s.sp := rfl
@[simp] theorem setP_pc : (s.setP v).pc = s.pc := rfl
@[simp] theorem setP_p : (s.setP v).p = v := rfl
@[simp] theorem setP_nmiPending : (s.setP v).nmiPending = s.nmiPending := rfl
@[simp] theorem setP_halted : (s.setP v).halted = s.halted := rfl
@[simp] theorem setP_faultOpcode : (s.setP v).faultOpcode = s.faultOpcode := rfl
@[simp] theorem setP_ram : (s.setP v).ram = s.ram := rfl
@[simp] theorem setP_cart : (s.setP v).cart = s.cart := rfl
@[simp] theorem setP_vtu : (s.setP v).vtu = s.vtu := rfl
@[simp] theorem setP_busDraws : (s.setP v).busDraws = s.busDraws := rfl
@[simp] theorem setP_resetDone : (s.setP v).resetDone = s.resetDone := rfl
@[simp] theorem setP_inputs : (s.setP v).inputs = s.inputs := rfl
@[simp] theorem setP_out : (s.setP v).out = s.out := rfl

end SetP

section SetNmiPending
variable (v : Bool)

@[simp] theorem setNmiPending_a : (s.setNmiPending v).a = s.a := rfl
@[simp] theorem setNmiPending_x : (s.setNmiPending v).x = s.x := rfl
@[simp] theorem setNmiPending_y : (s.setNmiPending v).y = s.y := rfl
@[simp] theorem setNmiPending_sp : (s.setNmiPending v).sp = s.sp := rfl
@[simp] theorem setNmiPending_pc : (s.setNmiPending v).pc = s.pc := rfl
@[simp] theorem setNmiPending_p : (s.setNmiPending v).p = s.p := rfl
@[simp] theorem setNmiPending_nmiPending : (s.setNmiPending v).nmiPending = v := rfl
@[simp] theorem setNmiPending_halted : (s.setNmiPending v).halted = s.halted := rfl
@[simp] theorem setNmiPending_faultOpcode : (s.setNmiPending v).faultOpcode = s.faultOpcode := rfl
@[simp] theorem setNmiPending_ram : (s.setNmiPending v).ram = s.ram := rfl
@[simp] theorem setNmiPending_cart : (s.setNmiPending v).cart = s.cart := rfl
@[simp] theorem setNmiPending_vtu : (s.setNmiPending v).vtu = s.vtu := rfl
@[simp] theorem setNmiPending_busDraws : (s.setNmiPending v).busDraws = s.busDraws := rfl
@[simp] theorem setNmiPending_resetDone : (s.setNmiPending v).resetDone = s.resetDone := rfl
@[simp] theorem setNmiPending_inputs : (s.setNmiPending v).inputs = s.inputs := rfl
@[simp] theorem setNmiPending_out : (s.setNmiPending v).out = s.out := rfl

end SetNmiPending

section SetRam
variable (v : Memory)

@[simp] theorem setRam_a : (s.setRam v).a = s.a := rfl
@[simp] theorem setRam_x : (s.setRam v).x = s.x := rfl
@[simp] theorem setRam_y : (s.setRam v).y = s.y := rfl
@[simp] theorem setRam_sp : (s.setRam v).sp = s.sp := rfl
@[simp] theorem setRam_pc : (s.setRam v).pc = s.pc := rfl
@[simp] theorem setRam_p : (s.setRam v).p = s.p := rfl
@[simp] theorem setRam_nmiPending : (s.setRam v).nmiPending = s.nmiPending := rfl
@[simp] theorem setRam_halted : (s.setRam v).halted = s.halted := rfl
@[simp] theorem setRam_faultOpcode : (s.setRam v).faultOpcode = s.faultOpcode := rfl
@[simp] theorem setRam_ram : (s.setRam v).ram = v := rfl
@[simp] theorem setRam_cart : (s.setRam v).cart = s.cart := rfl
@[simp] theorem setRam_vtu : (s.setRam v).vtu = s.vtu := rfl
@[simp] theorem setRam_busDraws : (s.setRam v).busDraws = s.busDraws := rfl
@[simp] theorem setRam_resetDone : (s.setRam v).resetDone = s.resetDone := rfl
@[simp] theorem setRam_inputs : (s.setRam v).inputs = s.inputs := rfl
@[simp] theorem setRam_out : (s.setRam v).out = s.out := rfl

end SetRam

section SetCart
variable (v : Option Cartridge)

@[simp] theorem setCart_a : (s.setCart v).a = s.a := rfl
@[simp] theorem setCart_x : (s.setCart v).x = s.x := rfl
@[simp] theorem setCart_y : (s.setCart v).y = s.y := rfl
@[simp] theorem setCart_sp : (s.setCart v).sp = s.sp := rfl
@[simp] theorem setCart_pc : (s.setCart v).pc = s.pc := rfl
@[simp] theorem setCart_p : (s.setCart v).p = s.p := rfl
@[simp] theorem setCart_nmiPending : (s.setCart v).nmiPending = s.nmiPending := rfl
@[simp] theorem setCart_halted : (s.setCart v).halted = s.halted := rfl
@[simp] theorem setCart_faultOpcode : (s.setCart v).faultOpcode = s.faultOpcode := rfl
@[simp] theorem setCart_ram : (s.setCart v).ram = s.ram := rfl
@[simp] theorem setCart_cart : (s.setCart v).cart = v := rfl
@[simp] theorem setCart_vtu : (s.setCart v).vtu = s.vtu := rfl
@[simp] theorem setCart_busDraws : (s.setCart v).busDraws = s.busDraws := rfl
@[simp] theorem setCart_resetDone : (s.setCart v).resetDone = s.resetDone := rfl
@[simp] theorem setCart_inputs : (s.setCart v).inputs = s.inputs := rfl
@[simp] theorem setCart_out : (s.setCart v).out = s.out := rfl

end SetCart

section SetVtu
variable (v : Vtu)

@[simp] theorem setVtu_a : (s.setVtu v).a = s.a := rfl
@[simp] theorem setVtu_x : (s.setVtu v).x = s.x := rfl
@[simp] theorem setVtu_y : (s.setVtu v).y = s.y := rfl
@[simp] theorem setVtu_sp : (s.setVtu v).sp = s.sp := rfl
@[simp] theorem setVtu_pc : (s.setVtu v).pc = s.pc := rfl
@[simp] theorem setVtu_p : (s.setVtu v).p = s.p := rfl
@[simp] theorem setVtu_nmiPending : (s.setVtu v).nmiPending = s.nmiPending := rfl
@[simp] theorem setVtu_halted : (s.setVtu v).halted = s.halted := rfl
@[simp] theorem setVtu_faultOpcode : (s.setVtu v).faultOpcode = s.faultOpcode := rfl
@[simp] theorem setVtu_ram : (s.setVtu v).ram = s.ram := rfl
@[simp] theorem setVtu_cart : (s.setVtu v).cart = s.cart := rfl
@[simp] theorem setVtu_vtu : (s.setVtu v).vtu = v := rfl
@[simp] theorem setVtu_busDraws : (s.setVtu v).busDraws = s.busDraws := rfl
@[simp] theorem setVtu_resetDone : (s.setVtu v).resetDone = s.resetDone := rfl
@[simp] theorem setVtu_inputs : (s.setVtu v).inputs = s.inputs := rfl
@[simp] theorem setVtu_out : (s.setVtu v).out = s.out := rfl

end SetVtu

section SetBusDraws
variable (v : Nat)

@[simp] theorem setBusDraws_a : (s.setBusDraws v).a = s.a := rfl
@[simp] theorem setBusDraws_x : (s.setBusDraws v).x = s.x := rfl
@[simp] theorem setBusDraws_y : (s.setBusDraws v).y = s.y := rfl
@[simp] theorem setBusDraws_sp : (s.setBusDraws v).sp = s.sp := rfl
@[simp] theorem setBusDraws_pc : (s.setBusDraws v).pc = s.pc := rfl
@[simp] theorem setBusDraws_p : (s.setBusDraws v).p = s.p := rfl
@[simp] theorem setBusDraws_nmiPending : (s.setBusDraws v).nmiPending = s.nmiPending := rfl
@[simp] theorem setBusDraws_halted : (s.setBusDraws v).halted = s.halted := rfl
@[simp] theorem setBusDraws_faultOpcode : (s.setBusDraws v).faultOpcode = s.faultOpcode := rfl
@[simp] theorem setBusDraws_ram : (s.setBusDraws v).ram = s.ram := rfl
@[simp] theorem setBusDraws_cart : (s.setBusDraws v).cart = s.cart := rfl
@[simp] theorem setBusDraws_vtu : (s.setBusDraws v).vtu = s.vtu := rfl
@[simp] theorem setBusDraws_busDraws : (s.setBusDraws v).busDraws = v := rfl
@[simp] theorem setBusDraws_resetDone : (s.setBusDraws v).resetDone = s.resetDone := rfl
@[simp] theorem setBusDraws_inputs : (s.setBusDraws v).inputs = s.inputs := rfl
@[simp] theorem setBusDraws_out : (s.setBusDraws v).out = s.out := rfl

end SetBusDraws

section SetResetDone
variable (v : Bool)

@[simp] theorem setResetDone_a : (s.setResetDone v).a = s.a := rfl
@[simp] theorem setResetDone_x : (s.setResetDone v).x = s.x := rfl
@[simp] theorem setResetDone_y : (s.setResetDone v).y = s.y := rfl
@[simp] theorem setResetDone_sp : (s.setResetDone v).sp = s.sp := rfl
@[simp] theorem setResetDone_pc : (s.setResetDone v).pc = s.pc := rfl
@[simp] theorem setResetDone_p : (s.setResetDone v).p = s.p := rfl
@[simp] theorem setResetDone_nmiPending : (s.setResetDone v).nmiPending = s.nmiPending := rfl
@[simp] theorem setResetDone_halted : (s.setResetDone v).halted = s.halted := rfl
@[simp] theorem setResetDone_faultOpcode : (s.setResetDone v).faultOpcode = s.faultOpcode := rfl
@[simp] theorem setResetDone_ram : (s.setResetDone v).ram = s.ram := rfl
@[simp] theorem setResetDone_cart : (s.setResetDone v).cart = s.cart := rfl
@[simp] theorem setResetDone_vtu : (s.setResetDone v).vtu = s.vtu := rfl
@[simp] theorem setResetDone_busDraws : (s.setResetDone v).busDraws = s.busDraws := rfl
@[simp] theorem setResetDone_resetDone : (s.setResetDone v).resetDone = v := rfl
@[simp] theorem setResetDone_inputs : (s.setResetDone v).inputs = s.inputs := rfl
@[simp] theorem setResetDone_out : (s.setResetDone v).out = s.out := rfl

end SetResetDone

section SetInputs
variable (v : List Boundary)

@[simp] theorem setInputs_a : (s.setInputs v).a = s.a := rfl
@[simp] theorem setInputs_x : (s.setInputs v).x = s.x := rfl
@[simp] theorem setInputs_y : (s.setInputs v).y = s.y := rfl
@[simp] theorem setInputs_sp : (s.setInputs v).sp = s.sp := rfl
@[simp] theorem setInputs_pc : (s.setInputs v).pc = s.pc := rfl
@[simp] theorem setInputs_p : (s.setInputs v).p = s.p := rfl
@[simp] theorem setInputs_nmiPending : (s.setInputs v).nmiPending = s.nmiPending := rfl
@[simp] theorem setInputs_halted : (s.setInputs v).halted = s.halted := rfl
@[simp] theorem setInputs_faultOpcode : (s.setInputs v).faultOpcode = s.faultOpcode := rfl
@[simp] theorem setInputs_ram : (s.setInputs v).ram = s.ram := rfl
@[simp] theorem setInputs_cart : (s.setInputs v).cart = s.cart := rfl
@[simp] theorem setInputs_vtu : (s.setInputs v).vtu = s.vtu := rfl
@[simp] theorem setInputs_busDraws : (s.setInputs v).busDraws = s.busDraws := rfl
@[simp] theorem setInputs_resetDone : (s.setInputs v).resetDone = s.resetDone := rfl
@[simp] theorem setInputs_inputs : (s.setInputs v).inputs = v := rfl
@[simp] theorem setInputs_out : (s.setInputs v).out = s.out := rfl

end SetInputs

section SetOut
variable (v : StepOutput)

@[simp] theorem setOut_a : (s.setOut v).a = s.a := rfl
@[simp] theorem setOut_x : (s.setOut v).x = s.x := rfl
@[simp] theorem setOut_y : (s.setOut v).y = s.y := rfl
@[simp] theorem setOut_sp : (s.setOut v).sp = s.sp := rfl
@[simp] theorem setOut_pc : (s.setOut v).pc = s.pc := rfl
@[simp] theorem setOut_p : (s.setOut v).p = s.p := rfl
@[simp] theorem setOut_nmiPending : (s.setOut v).nmiPending = s.nmiPending := rfl
@[simp] theorem setOut_halted : (s.setOut v).halted = s.halted := rfl
@[simp] theorem setOut_faultOpcode : (s.setOut v).faultOpcode = s.faultOpcode := rfl
@[simp] theorem setOut_ram : (s.setOut v).ram = s.ram := rfl
@[simp] theorem setOut_cart : (s.setOut v).cart = s.cart := rfl
@[simp] theorem setOut_vtu : (s.setOut v).vtu = s.vtu := rfl
@[simp] theorem setOut_busDraws : (s.setOut v).busDraws = s.busDraws := rfl
@[simp] theorem setOut_resetDone : (s.setOut v).resetDone = s.resetDone := rfl
@[simp] theorem setOut_inputs : (s.setOut v).inputs = s.inputs := rfl
@[simp] theorem setOut_out : (s.setOut v).out = v := rfl

end SetOut

section Halt
variable (op : Byte)

@[simp] theorem halt_a : (s.halt op).a = s.a := rfl
@[simp] theorem halt_x : (s.halt op).x = s.x := rfl
@[simp] theorem halt_y : (s.halt op).y = s.y := rfl
@[simp] theorem halt_sp : (s.halt op).sp = s.sp := rfl
@[simp] theorem halt_pc : (s.halt op).pc = s.pc := rfl
@[simp] theorem halt_p : (s.halt op).p = s.p := rfl
@[simp] theorem halt_nmiPending : (s.halt op).nmiPending = s.nmiPending := rfl
@[simp] theorem halt_halted : (s.halt op).halted = true := rfl
@[simp] theorem halt_faultOpcode : (s.halt op).faultOpcode = op := rfl
@[simp] theorem halt_ram : (s.halt op).ram = s.ram := rfl
@[simp] theorem halt_cart : (s.halt op).cart = s.cart := rfl
@[simp] theorem halt_vtu : (s.halt op).vtu = s.vtu := rfl
@[simp] theorem halt_busDraws : (s.halt op).busDraws = s.busDraws := rfl
@[simp] theorem halt_resetDone : (s.halt op).resetDone = s.resetDone := rfl
@[simp] theorem halt_inputs : (s.halt op).inputs = s.inputs := rfl
@[simp] theorem halt_out : (s.halt op).out = s.out := rfl

end Halt

end Sys2Proof.Machine
end

