-- ==== Sys2Proof/Laws/Ops.lean ====
section
/-! SUPPORT. What each bus and stack operation can do, said once: a read changes only three device
fields and the draw counter, a write only `RAM` or the device registers, the stack is `RAM`. -/

namespace Sys2Proof.Machine

/-- `t` is `s` after bus reads: only `vblank`, `write_latch`, `vram_addr` and the draw counter may
differ. -/
def OnlyReads (s t : State) : Prop :=
  ∃ vb wl va n, t = (s.setVtu { s.vtu with vblank := vb, writeLatch := wl, vramAddr := va }).setBusDraws n

theorem OnlyReads.rfl' (s : State) : OnlyReads s s :=
  ⟨s.vtu.vblank, s.vtu.writeLatch, s.vtu.vramAddr, s.busDraws, rfl⟩

theorem OnlyReads.trans {s t u : State} (h1 : OnlyReads s t) (h2 : OnlyReads t u) : OnlyReads s u := by
  obtain ⟨b, w, v, n, rfl⟩ := h1
  obtain ⟨b', w', v', n', rfl⟩ := h2
  exact ⟨b', w', v', n', rfl⟩

section Fields
variable {s t : State} (h : OnlyReads s t)
include h

theorem OnlyReads.a : t.a = s.a := by obtain ⟨_, _, _, _, rfl⟩ := h; rfl
theorem OnlyReads.x : t.x = s.x := by obtain ⟨_, _, _, _, rfl⟩ := h; rfl
theorem OnlyReads.y : t.y = s.y := by obtain ⟨_, _, _, _, rfl⟩ := h; rfl
theorem OnlyReads.sp : t.sp = s.sp := by obtain ⟨_, _, _, _, rfl⟩ := h; rfl
theorem OnlyReads.pc : t.pc = s.pc := by obtain ⟨_, _, _, _, rfl⟩ := h; rfl
theorem OnlyReads.p : t.p = s.p := by obtain ⟨_, _, _, _, rfl⟩ := h; rfl
theorem OnlyReads.nmiPending : t.nmiPending = s.nmiPending := by obtain ⟨_, _, _, _, rfl⟩ := h; rfl
theorem OnlyReads.halted : t.halted = s.halted := by obtain ⟨_, _, _, _, rfl⟩ := h; rfl
theorem OnlyReads.faultOpcode : t.faultOpcode = s.faultOpcode := by obtain ⟨_, _, _, _, rfl⟩ := h; rfl
theorem OnlyReads.ram : t.ram = s.ram := by obtain ⟨_, _, _, _, rfl⟩ := h; rfl
theorem OnlyReads.cart : t.cart = s.cart := by obtain ⟨_, _, _, _, rfl⟩ := h; rfl
theorem OnlyReads.resetDone : t.resetDone = s.resetDone := by obtain ⟨_, _, _, _, rfl⟩ := h; rfl
theorem OnlyReads.inputs : t.inputs = s.inputs := by obtain ⟨_, _, _, _, rfl⟩ := h; rfl
theorem OnlyReads.out : t.out = s.out := by obtain ⟨_, _, _, _, rfl⟩ := h; rfl
theorem OnlyReads.scanline : t.vtu.scanline = s.vtu.scanline := by obtain ⟨_, _, _, _, rfl⟩ := h; rfl
theorem OnlyReads.dot : t.vtu.dot = s.vtu.dot := by obtain ⟨_, _, _, _, rfl⟩ := h; rfl
theorem OnlyReads.sprite0 : t.vtu.sprite0 = s.vtu.sprite0 := by obtain ⟨_, _, _, _, rfl⟩ := h; rfl
theorem OnlyReads.ctrl : t.vtu.ctrl = s.vtu.ctrl := by obtain ⟨_, _, _, _, rfl⟩ := h; rfl
theorem OnlyReads.mask : t.vtu.mask = s.vtu.mask := by obtain ⟨_, _, _, _, rfl⟩ := h; rfl
theorem OnlyReads.scrollX : t.vtu.scrollX = s.vtu.scrollX := by obtain ⟨_, _, _, _, rfl⟩ := h; rfl
theorem OnlyReads.scrollY : t.vtu.scrollY = s.vtu.scrollY := by obtain ⟨_, _, _, _, rfl⟩ := h; rfl
theorem OnlyReads.oamAddr : t.vtu.oamAddr = s.vtu.oamAddr := by obtain ⟨_, _, _, _, rfl⟩ := h; rfl
theorem OnlyReads.oam : t.vtu.oam = s.vtu.oam := by obtain ⟨_, _, _, _, rfl⟩ := h; rfl
theorem OnlyReads.vram : t.vtu.vram = s.vtu.vram := by obtain ⟨_, _, _, _, rfl⟩ := h; rfl
theorem OnlyReads.frameReady : t.vtu.frameReady = s.vtu.frameReady := by obtain ⟨_, _, _, _, rfl⟩ := h; rfl
theorem OnlyReads.frameBuffer : t.vtu.frameBuffer = s.vtu.frameBuffer := by obtain ⟨_, _, _, _, rfl⟩ := h; rfl
theorem OnlyReads.oracleDraws : t.vtu.oracleDraws = s.vtu.oracleDraws := by obtain ⟨_, _, _, _, rfl⟩ := h; rfl

end Fields

/-! ## Reads -/

theorem openBusRead_onlyReads (a : Word) (s : State) : OnlyReads s (openBusRead a s).2 :=
  ⟨s.vtu.vblank, s.vtu.writeLatch, s.vtu.vramAddr, s.busDraws + 1, rfl⟩

theorem vramRead_onlyReads (a : Word) (s : State) : OnlyReads s (vramRead a s).2 := by
  unfold vramRead
  dsimp only
  split
  · split
    · exact OnlyReads.rfl' s
    · exact openBusRead_onlyReads _ s
  · exact OnlyReads.rfl' s

theorem devRead_onlyReads (r : DevReg) (s : State) : OnlyReads s (devRead r s).2 := by
  cases r
  case status => exact ⟨false, false, s.vtu.vramAddr, s.busDraws + 1, rfl⟩
  case oamData => exact OnlyReads.rfl' s
  case data =>
    obtain ⟨vb, wl, va, n, h⟩ := vramRead_onlyReads s.vtu.vramAddr s
    exact ⟨vb, wl, va + vramIncr (vramRead s.vtu.vramAddr s).2.vtu, n, by
      simp only [devRead, h]; rfl⟩
  all_goals exact openBusRead_onlyReads _ s

/-- A bus read can do no more than this. -/
theorem memRead_onlyReads (a : Word) (s : State) : OnlyReads s (memRead a s).2 := by
  unfold memRead
  split
  · exact OnlyReads.rfl' s
  · exact devRead_onlyReads _ s
  · exact openBusRead_onlyReads a s
  · split
    · exact OnlyReads.rfl' s
    · exact openBusRead_onlyReads a s

section MemRead
variable (adr : Word) (s : State)


@[simp] theorem memRead_a : (memRead adr s).2.a = s.a := (memRead_onlyReads adr s).a
@[simp] theorem memRead_x : (memRead adr s).2.x = s.x := (memRead_onlyReads adr s).x
@[simp] theorem memRead_y : (memRead adr s).2.y = s.y := (memRead_onlyReads adr s).y
@[simp] theorem memRead_sp : (memRead adr s).2.sp = s.sp := (memRead_onlyReads adr s).sp
@[simp] theorem memRead_pc : (memRead adr s).2.pc = s.pc := (memRead_onlyReads adr s).pc
@[simp] theorem memRead_p : (memRead adr s).2.p = s.p := (memRead_onlyReads adr s).p
@[simp] theorem memRead_nmiPending : (memRead adr s).2.nmiPending = s.nmiPending := (memRead_onlyReads adr s).nmiPending
@[simp] theorem memRead_halted : (memRead adr s).2.halted = s.halted := (memRead_onlyReads adr s).halted
@[simp] theorem memRead_faultOpcode : (memRead adr s).2.faultOpcode = s.faultOpcode := (memRead_onlyReads adr s).faultOpcode
@[simp] theorem memRead_ram : (memRead adr s).2.ram = s.ram := (memRead_onlyReads adr s).ram
@[simp] theorem memRead_cart : (memRead adr s).2.cart = s.cart := (memRead_onlyReads adr s).cart
@[simp] theorem memRead_resetDone : (memRead adr s).2.resetDone = s.resetDone := (memRead_onlyReads adr s).resetDone
@[simp] theorem memRead_inputs : (memRead adr s).2.inputs = s.inputs := (memRead_onlyReads adr s).inputs
@[simp] theorem memRead_out : (memRead adr s).2.out = s.out := (memRead_onlyReads adr s).out

end MemRead

/-- A bus read does not look at `PC`. -/
theorem memRead_setPc (a w : Word) (s : State) :
    memRead a (s.setPc w) = ((memRead a s).1, (memRead a s).2.setPc w) := by
  have hv : vramRead s.vtu.vramAddr (s.setPc w) =
      ((vramRead s.vtu.vramAddr s).1, (vramRead s.vtu.vramAddr s).2.setPc w) := by
    simp only [vramRead, setPc_cart, setPc_vtu]
    split
    · cases s.cart <;> rfl
    · rfl
  simp only [memRead, setPc_ram, setPc_cart]
  cases route a with
  | ram i => rfl
  | device r =>
    cases r
    case data =>
      simp only [devRead, setPc_vtu]
      rw [hv]
      rfl
    all_goals rfl
  | unmapped => rfl
  | program o => cases s.cart <;> rfl

theorem read16_onlyReads (a : Word) (s : State) : OnlyReads s (read16 a s).2 :=
  (memRead_onlyReads a s).trans (memRead_onlyReads (a + 1) _)

/-! ## Routing -/

theorem route_ram {a : Word} (h : a.toNat ≤ 0x1FFF) : route a = .ram (a.toNat % 0x0800) := by
  simp [route, h]

theorem route_device {a : Word} (h : 0x2000 ≤ a.toNat) (h' : a.toNat ≤ 0x3FFF) :
    route a = .device (devRegOf (a.toNat - 0x2000)) := by
  simp [route, show ¬ a.toNat ≤ 0x1FFF by omega, h']

theorem route_unmapped {a : Word} (h : 0x4000 ≤ a.toNat) (h' : a.toNat ≤ 0x7FFF) :
    route a = .unmapped := by
  simp [route, show ¬ a.toNat ≤ 0x1FFF by omega, show ¬ a.toNat ≤ 0x3FFF by omega, h']

theorem route_program {a : Word} (h : 0x8000 ≤ a.toNat) : route a = .program (a.toNat - 0x8000) := by
  simp [route, show ¬ a.toNat ≤ 0x1FFF by omega, show ¬ a.toNat ≤ 0x3FFF by omega,
    show ¬ a.toNat ≤ 0x7FFF by omega]

theorem route_ram_lt {a : Word} {i : Nat} (h : route a = .ram i) : i < Config.ramSize := by
  unfold route at h
  dsimp only at h
  split at h
  · cases h; exact Nat.mod_lt _ (by decide)
  · split at h
    · cases h
    · split at h <;> cases h

/-! ## Writes -/

/-- A bus write can change only `RAM` and the device registers. -/
theorem memWrite_eq (a : Word) (v : Byte) (s : State) :
    memWrite a v s = (s.setRam (memWrite a v s).ram).setVtu (memWrite a v s).vtu := by
  unfold memWrite; split <;> rfl

section MemWrite
variable (adr : Word) (v : Byte) (s : State)


@[simp] theorem memWrite_a : (memWrite adr v s).a = s.a := by rw [memWrite_eq]; rfl
@[simp] theorem memWrite_x : (memWrite adr v s).x = s.x := by rw [memWrite_eq]; rfl
@[simp] theorem memWrite_y : (memWrite adr v s).y = s.y := by rw [memWrite_eq]; rfl
@[simp] theorem memWrite_sp : (memWrite adr v s).sp = s.sp := by rw [memWrite_eq]; rfl
@[simp] theorem memWrite_pc : (memWrite adr v s).pc = s.pc := by rw [memWrite_eq]; rfl
@[simp] theorem memWrite_p : (memWrite adr v s).p = s.p := by rw [memWrite_eq]; rfl
@[simp] theorem memWrite_nmiPending : (memWrite adr v s).nmiPending = s.nmiPending := by rw [memWrite_eq]; rfl
@[simp] theorem memWrite_halted : (memWrite adr v s).halted = s.halted := by rw [memWrite_eq]; rfl
@[simp] theorem memWrite_faultOpcode : (memWrite adr v s).faultOpcode = s.faultOpcode := by rw [memWrite_eq]; rfl
@[simp] theorem memWrite_cart : (memWrite adr v s).cart = s.cart := by rw [memWrite_eq]; rfl
@[simp] theorem memWrite_busDraws : (memWrite adr v s).busDraws = s.busDraws := by rw [memWrite_eq]; rfl
@[simp] theorem memWrite_resetDone : (memWrite adr v s).resetDone = s.resetDone := by rw [memWrite_eq]; rfl
@[simp] theorem memWrite_inputs : (memWrite adr v s).inputs = s.inputs := by rw [memWrite_eq]; rfl
@[simp] theorem memWrite_out : (memWrite adr v s).out = s.out := by rw [memWrite_eq]; rfl

end MemWrite

/-- What a write to a `RAM` address does to every `RAM` byte. -/
theorem memWrite_ram {a : Word} {i : Nat} (h : route a = .ram i) (v : Byte) (s : State) :
    memWrite a v s = s.setRam (Memory.write s.ram i v) := by simp [memWrite, h]

theorem memWrite_device {a : Word} {r : DevReg} (h : route a = .device r) (v : Byte) (s : State) :
    memWrite a v s = s.setVtu (devWrite r v s.vtu) := by simp [memWrite, h]

/-- A video-memory write changes `VRAM` only, and nothing below 0x2000. -/
theorem vramWrite_keeps (a : Word) (v : Byte) (u : Vtu) :
    vramWrite a v u = { u with vram := (vramWrite a v u).vram } ∧
      (a.toNat % 0x4000 < 0x2000 → vramWrite a v u = u) := by
  simp only [vramWrite]
  split
  · exact ⟨rfl, fun _ => rfl⟩
  · exact ⟨rfl, fun h => absurd h (by omega)⟩

/-- A device write leaves the counters, the flags and the frame alone. -/
theorem devWrite_keeps (r : DevReg) (v : Byte) (u : Vtu) :
    (devWrite r v u).scanline = u.scanline ∧ (devWrite r v u).dot = u.dot ∧
      (devWrite r v u).vblank = u.vblank ∧ (devWrite r v u).sprite0 = u.sprite0 ∧
      (devWrite r v u).frameReady = u.frameReady ∧ (devWrite r v u).frameBuffer = u.frameBuffer ∧
      (devWrite r v u).oracleDraws = u.oracleDraws := by
  cases r <;> simp only [devWrite, stepVramAddr, vramWrite] <;> (try split) <;> simp

/-- A device write keeps the storages of the unit canonical. -/
theorem devWrite_wf (r : DevReg) (v : Byte) {u : Vtu} (ho : Memory.wf Config.oamSize u.oam = true)
    (hv : Memory.wf Config.vramSize u.vram = true) :
    Memory.wf Config.oamSize (devWrite r v u).oam = true ∧
      Memory.wf Config.vramSize (devWrite r v u).vram = true := by
  cases r
  case oamData => exact ⟨Memory.wf_write v u.oamAddr.isLt ho, hv⟩
  case data =>
    refine ⟨?_, ?_⟩ <;> simp only [devWrite, stepVramAddr, vramWrite] <;> split
    · exact ho
    · exact ho
    · exact hv
    · exact Memory.wf_write v (by simp only [Config.vramSize]; omega) hv
  all_goals (simp only [devWrite]; (try split) <;> exact ⟨ho, hv⟩)

/-- A bus write keeps `RAM` and the unit's storages canonical. -/
theorem memWrite_wf (a : Word) (v : Byte) {s : State} (hr : Memory.wf Config.ramSize s.ram = true)
    (ho : Memory.wf Config.oamSize s.vtu.oam = true)
    (hv : Memory.wf Config.vramSize s.vtu.vram = true) :
    Memory.wf Config.ramSize (memWrite a v s).ram = true ∧
      Memory.wf Config.oamSize (memWrite a v s).vtu.oam = true ∧
      Memory.wf Config.vramSize (memWrite a v s).vtu.vram = true := by
  unfold memWrite
  split
  · exact ⟨Memory.wf_write v (route_ram_lt ‹_›) hr, ho, hv⟩
  · exact ⟨hr, devWrite_wf _ v ho hv⟩
  · exact ⟨hr, ho, hv⟩
  · exact ⟨hr, ho, hv⟩

/-! ## The stack -/

/-- The `RAM` index of the stack byte `0x0100 + SP`. -/
def stackIndex (sp : Byte) : Nat := 0x0100 + sp.toNat

theorem stackAddr_toNat (sp : Byte) : (stackAddr sp).toNat = stackIndex sp := by
  have := sp.isLt
  have h0 : (0x0100 : Word).toNat = 256 := rfl
  rw [stackAddr, stackIndex, BitVec.toNat_add, zext16_toNat, h0]
  omega

theorem route_stackAddr (sp : Byte) : route (stackAddr sp) = .ram (stackIndex sp) := by
  have h := stackAddr_toNat sp
  have := sp.isLt
  have hi : stackIndex sp < 0x0800 := by simp only [stackIndex]; omega
  rw [route_ram (by rw [h]; omega), h, Nat.mod_eq_of_lt hi]

theorem stackIndex_lt (sp : Byte) : stackIndex sp < Config.ramSize := by
  have := sp.isLt
  simp only [stackIndex, Config.ramSize]; omega

theorem stackIndex_inj {a b : Byte} : stackIndex a = stackIndex b ↔ a = b := by
  simp only [stackIndex]
  exact ⟨fun h => BitVec.eq_of_toNat_eq (by omega), fun h => by rw [h]⟩

/-- A push writes one byte of `RAM` and moves `SP`. -/
theorem push_eq (v : Byte) (s : State) :
    push v s = (s.setRam (Memory.write s.ram (stackIndex s.sp) v)).setSp (s.sp - 1) := by
  simp [push, memWrite_ram (route_stackAddr s.sp)]

/-- A pop reads one byte of `RAM` and moves `SP`. -/
theorem pop_eq (s : State) :
    pop s = (Memory.read s.ram (stackIndex (s.sp + 1)), s.setSp (s.sp + 1)) := by
  simp [pop, memRead, route_stackAddr]

theorem pushWord_eq (w : Word) (s : State) :
    pushWord w s = (s.setRam (Memory.write (Memory.write s.ram (stackIndex s.sp) (hiByte w))
      (stackIndex (s.sp - 1)) (loByte w))).setSp (s.sp - 1 - 1) := by
  simp only [pushWord, push_eq]; rfl

theorem popWord_eq (s : State) :
    popWord s = (mkWord (Memory.read s.ram (stackIndex (s.sp + 1 + 1)))
      (Memory.read s.ram (stackIndex (s.sp + 1))), s.setSp (s.sp + 1 + 1)) := by
  simp only [popWord, pop_eq]; rfl

/-! ## Interrupts -/

/-- The program byte behind a bus address of the program window. -/
def prgByte (c : Cartridge) (a : Word) : Byte := Memory.read c.prg.bytes ((a.toNat - 0x8000) % c.prg.len)

theorem memRead_program {a : Word} {c : Cartridge} {s : State} (h : 0x8000 ≤ a.toNat)
    (hc : s.cart = some c) : memRead a s = (prgByte c a, s) := by
  simp [memRead, route_program h, hc, prgByte]

/-- The word a vector holds. -/
def vectorWord (c : Cartridge) (kind : InterruptKind) : Word :=
  mkWord (prgByte c (vector kind + 1)) (prgByte c (vector kind))

theorem read16_vector {c : Cartridge} {s : State} (kind : InterruptKind) (hc : s.cart = some c) :
    read16 (vector kind) s = (vectorWord c kind, s) := by
  have h1 : 0x8000 ≤ (vector kind).toNat := by cases kind <;> decide
  have h2 : 0x8000 ≤ (vector kind + 1).toNat := by cases kind <;> decide
  simp only [read16, memRead_program h1 hc, memRead_program h2 hc, vectorWord]

theorem enterVector_eq {c : Cartridge} {s : State} (kind : InterruptKind) (hc : s.cart = some c) :
    enterVector kind s = (s.setP (withI s.p true)).setPc (vectorWord c kind) := by
  have hc' : (s.setP (withI s.p true)).cart = some c := by simpa using hc
  simp only [enterVector, read16_vector kind hc']

/-- The pushes of an entry: three bytes of `RAM`, and `SP` three lower. -/
theorem pushFrame_eq {kind : InterruptKind} (hk : kind ≠ .reset) (s : State) :
    pushFrame kind s = (s.setRam (Memory.write (Memory.write (Memory.write s.ram
      (stackIndex s.sp) (hiByte s.pc)) (stackIndex (s.sp - 1)) (loByte s.pc))
      (stackIndex (s.sp - 1 - 1)) (entryStatus kind s.p))).setSp (s.sp - 1 - 1 - 1) := by
  cases kind
  case reset => exact absurd rfl hk
  all_goals simp only [pushFrame, push_eq, pushWord_eq]; rfl

/-- A masked request changes nothing; every other kind enters. -/
theorem raiseInterrupt_masked {s : State} (h : flagI s.p = true) : raiseInterrupt .maskable s = (0, s) := by
  simp [raiseInterrupt, h]

theorem raiseInterrupt_taken {kind : InterruptKind} {s : State}
    (h : kind ≠ .maskable ∨ flagI s.p = false) :
    raiseInterrupt kind s = (Config.entryCycles, enterVector kind (pushFrame kind s)) := by
  unfold raiseInterrupt
  rw [if_neg]
  rintro ⟨h1, h2⟩
  rcases h with h | h
  · exact h h1
  · rw [h] at h2; cases h2

/-- `RTI` in terms of `RAM`. -/
theorem returnFromInterrupt_eq (s : State) :
    returnFromInterrupt s = (((s.setSp (s.sp + 1 + 1 + 1)).setP
      (loadedStatus (Memory.read s.ram (stackIndex (s.sp + 1))))).setPc
      (mkWord (Memory.read s.ram (stackIndex (s.sp + 1 + 1 + 1)))
        (Memory.read s.ram (stackIndex (s.sp + 1 + 1))))) := by
  simp only [returnFromInterrupt, pop_eq, popWord_eq]; rfl

end Sys2Proof.Machine
end

