-- ==== Sys2Proof/Laws/Operands.lean ====
section
/-! SUPPORT. What resolving, reading and writing an operand can do, and what the shapes of the
meanings answer. -/

namespace Sys2Proof.Machine

theorem readPointer_onlyReads (lo hi : Word) (s : State) : OnlyReads s (readPointer lo hi s).2 :=
  (memRead_onlyReads lo s).trans (memRead_onlyReads hi _)

/-- Resolving an operand makes bus reads and nothing else. -/
theorem resolve_onlyReads (o : Operand) (s : State) : OnlyReads s (resolve o s).state := by
  cases o
  case indirect w => exact readPointer_onlyReads _ _ s
  case indirectX d8 => exact readPointer_onlyReads _ _ s
  case indirectY d8 => exact readPointer_onlyReads _ _ s
  all_goals exact OnlyReads.rfl' s

/-- Reading an operand makes at most one bus read. -/
theorem readPlace_onlyReads (pl : Place) (s : State) : OnlyReads s (readPlace pl s).2 := by
  cases pl
  case bus ea => exact memRead_onlyReads ea s
  all_goals exact OnlyReads.rfl' s

section Fields
variable (o : Operand) (pl : Place) (v : Byte) (s : State)

@[simp] theorem resolve_a : (resolve o s).state.a = s.a := (resolve_onlyReads o s).a
@[simp] theorem resolve_x : (resolve o s).state.x = s.x := (resolve_onlyReads o s).x
@[simp] theorem resolve_y : (resolve o s).state.y = s.y := (resolve_onlyReads o s).y
@[simp] theorem resolve_sp : (resolve o s).state.sp = s.sp := (resolve_onlyReads o s).sp
@[simp] theorem resolve_pc : (resolve o s).state.pc = s.pc := (resolve_onlyReads o s).pc
@[simp] theorem resolve_p : (resolve o s).state.p = s.p := (resolve_onlyReads o s).p
@[simp] theorem resolve_nmiPending : (resolve o s).state.nmiPending = s.nmiPending := (resolve_onlyReads o s).nmiPending
@[simp] theorem resolve_halted : (resolve o s).state.halted = s.halted := (resolve_onlyReads o s).halted
@[simp] theorem resolve_faultOpcode : (resolve o s).state.faultOpcode = s.faultOpcode := (resolve_onlyReads o s).faultOpcode
@[simp] theorem resolve_ram : (resolve o s).state.ram = s.ram := (resolve_onlyReads o s).ram
@[simp] theorem resolve_cart : (resolve o s).state.cart = s.cart := (resolve_onlyReads o s).cart
@[simp] theorem resolve_resetDone : (resolve o s).state.resetDone = s.resetDone := (resolve_onlyReads o s).resetDone
@[simp] theorem resolve_inputs : (resolve o s).state.inputs = s.inputs := (resolve_onlyReads o s).inputs
@[simp] theorem resolve_out : (resolve o s).state.out = s.out := (resolve_onlyReads o s).out

@[simp] theorem readPlace_a : (readPlace pl s).2.a = s.a := (readPlace_onlyReads pl s).a
@[simp] theorem readPlace_x : (readPlace pl s).2.x = s.x := (readPlace_onlyReads pl s).x
@[simp] theorem readPlace_y : (readPlace pl s).2.y = s.y := (readPlace_onlyReads pl s).y
@[simp] theorem readPlace_sp : (readPlace pl s).2.sp = s.sp := (readPlace_onlyReads pl s).sp
@[simp] theorem readPlace_pc : (readPlace pl s).2.pc = s.pc := (readPlace_onlyReads pl s).pc
@[simp] theorem readPlace_p : (readPlace pl s).2.p = s.p := (readPlace_onlyReads pl s).p
@[simp] theorem readPlace_nmiPending : (readPlace pl s).2.nmiPending = s.nmiPending := (readPlace_onlyReads pl s).nmiPending
@[simp] theorem readPlace_halted : (readPlace pl s).2.halted = s.halted := (readPlace_onlyReads pl s).halted
@[simp] theorem readPlace_faultOpcode : (readPlace pl s).2.faultOpcode = s.faultOpcode := (readPlace_onlyReads pl s).faultOpcode
@[simp] theorem readPlace_ram : (readPlace pl s).2.ram = s.ram := (readPlace_onlyReads pl s).ram
@[simp] theorem readPlace_cart : (readPlace pl s).2.cart = s.cart := (readPlace_onlyReads pl s).cart
@[simp] theorem readPlace_resetDone : (readPlace pl s).2.resetDone = s.resetDone := (readPlace_onlyReads pl s).resetDone
@[simp] theorem readPlace_inputs : (readPlace pl s).2.inputs = s.inputs := (readPlace_onlyReads pl s).inputs
@[simp] theorem readPlace_out : (readPlace pl s).2.out = s.out := (readPlace_onlyReads pl s).out

@[simp] theorem writePlace_x : (writePlace pl v s).x = s.x := by cases pl <;> simp [writePlace]
@[simp] theorem writePlace_y : (writePlace pl v s).y = s.y := by cases pl <;> simp [writePlace]
@[simp] theorem writePlace_sp : (writePlace pl v s).sp = s.sp := by cases pl <;> simp [writePlace]
@[simp] theorem writePlace_pc : (writePlace pl v s).pc = s.pc := by cases pl <;> simp [writePlace]
@[simp] theorem writePlace_p : (writePlace pl v s).p = s.p := by cases pl <;> simp [writePlace]
@[simp] theorem writePlace_nmiPending : (writePlace pl v s).nmiPending = s.nmiPending := by cases pl <;> simp [writePlace]
@[simp] theorem writePlace_halted : (writePlace pl v s).halted = s.halted := by cases pl <;> simp [writePlace]
@[simp] theorem writePlace_faultOpcode : (writePlace pl v s).faultOpcode = s.faultOpcode := by cases pl <;> simp [writePlace]
@[simp] theorem writePlace_cart : (writePlace pl v s).cart = s.cart := by cases pl <;> simp [writePlace]
@[simp] theorem writePlace_busDraws : (writePlace pl v s).busDraws = s.busDraws := by cases pl <;> simp [writePlace]
@[simp] theorem writePlace_resetDone : (writePlace pl v s).resetDone = s.resetDone := by cases pl <;> simp [writePlace]
@[simp] theorem writePlace_inputs : (writePlace pl v s).inputs = s.inputs := by cases pl <;> simp [writePlace]
@[simp] theorem writePlace_out : (writePlace pl v s).out = s.out := by cases pl <;> simp [writePlace]

@[simp] theorem writePlace_bus (ea : Word) : writePlace (.bus ea) v s = memWrite ea v s := rfl
@[simp] theorem writePlace_accumulator : writePlace .accumulator v s = s.setA v := rfl
@[simp] theorem readPlace_accumulator : readPlace .accumulator s = (s.a, s) := rfl
@[simp] theorem readPlace_fetched : readPlace (.fetched v) s = (v, s) := rfl
@[simp] theorem readPlace_bus (ea : Word) : readPlace (.bus ea) s = memRead ea s := rfl

end Fields

/-- Every mode but the two without a bus operand resolves to a bus address. -/
theorem resolve_bus {o : Operand} (ha : o.mode ≠ .accumulator) (hi : o.mode ≠ .immediate) (s : State) :
    ∃ ea, (resolve o s).place = .bus ea := by
  cases o <;> first | exact ⟨_, rfl⟩ | exact absurd rfl ha | exact absurd rfl hi

/-- What a meaning answers for a term the table has a row for. -/
theorem runForm_eq {i : Instr} {e : TableEntry} (he : i.entry = some e) (body : State → Effect)
    (s : State) : runForm i body s = .next ((body s).state.setOut
      ⟨instrCycles e (body s).crossed (body s).extra, some e.opcode⟩) := by
  simp [runForm, he]

/-- When a meaning answers a next state, and which. -/
theorem runForm_next {i : Instr} {body : State → Effect} {s t : State}
    (h : runForm i body s = .next t) : ∃ e, i.entry = some e ∧ t = (body s).state.setOut
      ⟨instrCycles e (body s).crossed (body s).extra, some e.opcode⟩ := by
  unfold runForm at h
  split at h
  · cases h
  · exact ⟨_, ‹_›, (Host.Outcome.next.inj h).symm⟩

end Sys2Proof.Machine
end

