-- ==== Sys2Proof/Laws/Dispatch.lean ====
section
/-! SUPPORT. Every meaning is one run of its form: what `exec` answers, and when. -/

namespace Sys2Proof.Machine

/-- Every arm of the dispatch runs its instruction's form with some effect. -/
theorem exec_runForm (i : Instr) : ∃ body : State → Effect, ∀ s, exec i s = runForm i body s := by
  cases i <;> simp only [exec, runRead, runStore, runModify, runImplicit, runBranch,
    execLda, execLdx, execLdy, execSta, execStx, execSty, execTax, execTay, execTxa, execTya,
    execTsx, execTxs, execPha, execPhp, execPla, execPlp, execAnd, execOra, execEor, execBit,
    execAdc, execSbc, execCmp, execCpx, execCpy, execInc, execDec, execInx, execIny, execDex,
    execDey, execAsl, execLsr, execRol, execRor, execJmp, execJsr, execRts, execBcc, execBcs,
    execBeq, execBne, execBmi, execBpl, execBvc, execBvs, execClc, execSec, execCli, execSei,
    execClv, execCld, execSed, execBrk, execRti, execNop, execIll] <;>
    exact ⟨_, fun _ => rfl⟩

/-- A term the table has a row for answers a next state, with its opcode in the output. -/
theorem exec_next {i : Instr} {e : TableEntry} (he : i.entry = some e) (s : State) :
    ∃ t, exec i s = .next t ∧ t.out.opcode = some e.opcode := by
  obtain ⟨body, h⟩ := exec_runForm i
  exact ⟨_, (h s).trans (runForm_eq he body s), rfl⟩

/-- A term the table has no row for is refused by name. -/
theorem exec_refused {i : Instr} (he : i.entry = none) (s : State) : exec i s = .refused .noSuchForm := by
  obtain ⟨body, h⟩ := exec_runForm i
  rw [h, runForm, he]

end Sys2Proof.Machine
end

