-- ==== Sys2Proof/Laws/PerInstr.lean ====
section
/-! SUPPORT. Statements about every instruction as syntax, one lemma per constructor. -/

namespace Sys2Proof.Laws.HasRow

/-- A well-formed instruction has a row in the instruction table (spec/30_encoding.md rule R109). -/
def Statement (i : Instr) : Prop := i.wf = true → ∃ e, i.entry = some e

/-- The 105 listed bytes are illegal in the table (rule R111). -/
theorem illegal_rows : illegalOpcodes.all (fun op => (tableEntry op).mnemonic == .ILL) = true := by
  decide +kernel

/-- A form of a mnemonic that is not `ILL` has a row. -/
theorem row_of_form (mn : Mnemonic) (mode : Mode) :
    (formsOf mn).contains mode = true → (rowOf mn mode).isSome = true := by
  cases mn <;> cases mode <;> decide +kernel

theorem rowOf_of_form {mn : Mnemonic} {mode : Mode} (h : (formsOf mn).contains mode = true) :
    ∃ e, rowOf mn mode = some e := Option.isSome_iff_exists.mp (row_of_form mn mode h)

theorem form_of_wf {i : Instr} (h : i.wf = true) : (formsOf i.mnemonic).contains i.mode = true := by
  simp only [Instr.wf, Bool.and_eq_true] at h
  exact h.1

theorem lda (o : Operand) : Statement (.lda o) := by
  intro h; exact rowOf_of_form (form_of_wf h)
theorem ldx (o : Operand) : Statement (.ldx o) := by
  intro h; exact rowOf_of_form (form_of_wf h)
theorem ldy (o : Operand) : Statement (.ldy o) := by
  intro h; exact rowOf_of_form (form_of_wf h)
theorem sta (o : Operand) : Statement (.sta o) := by
  intro h; exact rowOf_of_form (form_of_wf h)
theorem stx (o : Operand) : Statement (.stx o) := by
  intro h; exact rowOf_of_form (form_of_wf h)
theorem sty (o : Operand) : Statement (.sty o) := by
  intro h; exact rowOf_of_form (form_of_wf h)
theorem tax : Statement .tax :=
  fun h => rowOf_of_form (form_of_wf h)
theorem tay : Statement .tay :=
  fun h => rowOf_of_form (form_of_wf h)
theorem txa : Statement .txa :=
  fun h => rowOf_of_form (form_of_wf h)
theorem tya : Statement .tya :=
  fun h => rowOf_of_form (form_of_wf h)
theorem tsx : Statement .tsx :=
  fun h => rowOf_of_form (form_of_wf h)
theorem txs : Statement .txs :=
  fun h => rowOf_of_form (form_of_wf h)
theorem pha : Statement .pha :=
  fun h => rowOf_of_form (form_of_wf h)
theorem php : Statement .php :=
  fun h => rowOf_of_form (form_of_wf h)
theorem pla : Statement .pla :=
  fun h => rowOf_of_form (form_of_wf h)
theorem plp : Statement .plp :=
  fun h => rowOf_of_form (form_of_wf h)
theorem and (o : Operand) : Statement (.and o) := by
  intro h; exact rowOf_of_form (form_of_wf h)
theorem ora (o : Operand) : Statement (.ora o) := by
  intro h; exact rowOf_of_form (form_of_wf h)
theorem eor (o : Operand) : Statement (.eor o) := by
  intro h; exact rowOf_of_form (form_of_wf h)
theorem bit (o : Operand) : Statement (.bit o) := by
  intro h; exact rowOf_of_form (form_of_wf h)
theorem adc (o : Operand) : Statement (.adc o) := by
  intro h; exact rowOf_of_form (form_of_wf h)
theorem sbc (o : Operand) : Statement (.sbc o) := by
  intro h; exact rowOf_of_form (form_of_wf h)
theorem cmp (o : Operand) : Statement (.cmp o) := by
  intro h; exact rowOf_of_form (form_of_wf h)
theorem cpx (o : Operand) : Statement (.cpx o) := by
  intro h; exact rowOf_of_form (form_of_wf h)
theorem cpy (o : Operand) : Statement (.cpy o) := by
  intro h; exact rowOf_of_form (form_of_wf h)
theorem inc (o : Operand) : Statement (.inc o) := by
  intro h; exact rowOf_of_form (form_of_wf h)
theorem dec (o : Operand) : Statement (.dec o) := by
  intro h; exact rowOf_of_form (form_of_wf h)
theorem inx : Statement .inx :=
  fun h => rowOf_of_form (form_of_wf h)
theorem iny : Statement .iny :=
  fun h => rowOf_of_form (form_of_wf h)
theorem dex : Statement .dex :=
  fun h => rowOf_of_form (form_of_wf h)
theorem dey : Statement .dey :=
  fun h => rowOf_of_form (form_of_wf h)
theorem asl (o : Operand) : Statement (.asl o) := by
  intro h; exact rowOf_of_form (form_of_wf h)
theorem lsr (o : Operand) : Statement (.lsr o) := by
  intro h; exact rowOf_of_form (form_of_wf h)
theorem rol (o : Operand) : Statement (.rol o) := by
  intro h; exact rowOf_of_form (form_of_wf h)
theorem ror (o : Operand) : Statement (.ror o) := by
  intro h; exact rowOf_of_form (form_of_wf h)
theorem jmp (o : Operand) : Statement (.jmp o) := by
  intro h; exact rowOf_of_form (form_of_wf h)
theorem jsr (target : Word) : Statement (.jsr target) :=
  fun h => rowOf_of_form (form_of_wf h)
theorem rts : Statement .rts :=
  fun h => rowOf_of_form (form_of_wf h)
theorem bcc (d8 : Byte) : Statement (.bcc d8) :=
  fun h => rowOf_of_form (form_of_wf h)
theorem bcs (d8 : Byte) : Statement (.bcs d8) :=
  fun h => rowOf_of_form (form_of_wf h)
theorem beq (d8 : Byte) : Statement (.beq d8) :=
  fun h => rowOf_of_form (form_of_wf h)
theorem bne (d8 : Byte) : Statement (.bne d8) :=
  fun h => rowOf_of_form (form_of_wf h)
theorem bmi (d8 : Byte) : Statement (.bmi d8) :=
  fun h => rowOf_of_form (form_of_wf h)
theorem bpl (d8 : Byte) : Statement (.bpl d8) :=
  fun h => rowOf_of_form (form_of_wf h)
theorem bvc (d8 : Byte) : Statement (.bvc d8) :=
  fun h => rowOf_of_form (form_of_wf h)
theorem bvs (d8 : Byte) : Statement (.bvs d8) :=
  fun h => rowOf_of_form (form_of_wf h)
theorem clc : Statement .clc :=
  fun h => rowOf_of_form (form_of_wf h)
theorem sec : Statement .sec :=
  fun h => rowOf_of_form (form_of_wf h)
theorem cli : Statement .cli :=
  fun h => rowOf_of_form (form_of_wf h)
theorem sei : Statement .sei :=
  fun h => rowOf_of_form (form_of_wf h)
theorem clv : Statement .clv :=
  fun h => rowOf_of_form (form_of_wf h)
theorem cld : Statement .cld :=
  fun h => rowOf_of_form (form_of_wf h)
theorem sed : Statement .sed :=
  fun h => rowOf_of_form (form_of_wf h)
theorem brk : Statement .brk :=
  fun h => rowOf_of_form (form_of_wf h)
theorem rti : Statement .rti :=
  fun h => rowOf_of_form (form_of_wf h)
theorem nop : Statement .nop :=
  fun h => rowOf_of_form (form_of_wf h)
theorem ill (op : Byte) : Statement (.ill op) := by
  intro h
  have hm : op ∈ illegalOpcodes := by
    simp only [Instr.wf, Bool.and_eq_true] at h
    simpa using h.2
  have hi := List.all_eq_true.mp illegal_rows op hm
  exact ⟨tableEntry op, by simpa [Instr.entry] using hi⟩

end Sys2Proof.Laws.HasRow

namespace Sys2Proof

/-- A well-formed instruction has a row in the instruction table. -/
theorem wf_entry {i : Instr} (h : i.wf = true) : ∃ e, i.entry = some e := by
  cases i with
  | lda o => exact Laws.HasRow.lda o h
  | ldx o => exact Laws.HasRow.ldx o h
  | ldy o => exact Laws.HasRow.ldy o h
  | sta o => exact Laws.HasRow.sta o h
  | stx o => exact Laws.HasRow.stx o h
  | sty o => exact Laws.HasRow.sty o h
  | tax => exact Laws.HasRow.tax h
  | tay => exact Laws.HasRow.tay h
  | txa => exact Laws.HasRow.txa h
  | tya => exact Laws.HasRow.tya h
  | tsx => exact Laws.HasRow.tsx h
  | txs => exact Laws.HasRow.txs h
  | pha => exact Laws.HasRow.pha h
  | php => exact Laws.HasRow.php h
  | pla => exact Laws.HasRow.pla h
  | plp => exact Laws.HasRow.plp h
  | and o => exact Laws.HasRow.and o h
  | ora o => exact Laws.HasRow.ora o h
  | eor o => exact Laws.HasRow.eor o h
  | bit o => exact Laws.HasRow.bit o h
  | adc o => exact Laws.HasRow.adc o h
  | sbc o => exact Laws.HasRow.sbc o h
  | cmp o => exact Laws.HasRow.cmp o h
  | cpx o => exact Laws.HasRow.cpx o h
  | cpy o => exact Laws.HasRow.cpy o h
  | inc o => exact Laws.HasRow.inc o h
  | dec o => exact Laws.HasRow.dec o h
  | inx => exact Laws.HasRow.inx h
  | iny => exact Laws.HasRow.iny h
  | dex => exact Laws.HasRow.dex h
  | dey => exact Laws.HasRow.dey h
  | asl o => exact Laws.HasRow.asl o h
  | lsr o => exact Laws.HasRow.lsr o h
  | rol o => exact Laws.HasRow.rol o h
  | ror o => exact Laws.HasRow.ror o h
  | jmp o => exact Laws.HasRow.jmp o h
  | jsr target => exact Laws.HasRow.jsr target h
  | rts => exact Laws.HasRow.rts h
  | bcc d8 => exact Laws.HasRow.bcc d8 h
  | bcs d8 => exact Laws.HasRow.bcs d8 h
  | beq d8 => exact Laws.HasRow.beq d8 h
  | bne d8 => exact Laws.HasRow.bne d8 h
  | bmi d8 => exact Laws.HasRow.bmi d8 h
  | bpl d8 => exact Laws.HasRow.bpl d8 h
  | bvc d8 => exact Laws.HasRow.bvc d8 h
  | bvs d8 => exact Laws.HasRow.bvs d8 h
  | clc => exact Laws.HasRow.clc h
  | sec => exact Laws.HasRow.sec h
  | cli => exact Laws.HasRow.cli h
  | sei => exact Laws.HasRow.sei h
  | clv => exact Laws.HasRow.clv h
  | cld => exact Laws.HasRow.cld h
  | sed => exact Laws.HasRow.sed h
  | brk => exact Laws.HasRow.brk h
  | rti => exact Laws.HasRow.rti h
  | nop => exact Laws.HasRow.nop h
  | ill op => exact Laws.HasRow.ill op h

end Sys2Proof
end

