-- ==== Sys2Proof/Laws/Video.lean ====
section
/-! SUPPORT. What a tick can do: it moves the position by one dot, and changes only the unit's flags,
frame and oracle counter and the NMI latch. -/

namespace Sys2Proof.Machine

/-- A tick in one equation: the processor and the bus are left alone. -/
theorem tick_eq (s : State) : tick s = (s.setVtu (tick s).vtu).setNmiPending (tick s).nmiPending := by
  unfold tick sprite0Draw positionEvent vblankStart preRender frameEnd
  dsimp only
  split <;> (try split) <;> (try split) <;> (try split) <;> rfl

section Tick
variable (s : State)

@[simp] theorem tick_a : (tick s).a = s.a := by rw [tick_eq]; rfl
@[simp] theorem tick_x : (tick s).x = s.x := by rw [tick_eq]; rfl
@[simp] theorem tick_y : (tick s).y = s.y := by rw [tick_eq]; rfl
@[simp] theorem tick_sp : (tick s).sp = s.sp := by rw [tick_eq]; rfl
@[simp] theorem tick_pc : (tick s).pc = s.pc := by rw [tick_eq]; rfl
@[simp] theorem tick_p : (tick s).p = s.p := by rw [tick_eq]; rfl
@[simp] theorem tick_halted : (tick s).halted = s.halted := by rw [tick_eq]; rfl
@[simp] theorem tick_faultOpcode : (tick s).faultOpcode = s.faultOpcode := by rw [tick_eq]; rfl
@[simp] theorem tick_ram : (tick s).ram = s.ram := by rw [tick_eq]; rfl
@[simp] theorem tick_cart : (tick s).cart = s.cart := by rw [tick_eq]; rfl
@[simp] theorem tick_busDraws : (tick s).busDraws = s.busDraws := by rw [tick_eq]; rfl
@[simp] theorem tick_resetDone : (tick s).resetDone = s.resetDone := by rw [tick_eq]; rfl
@[simp] theorem tick_inputs : (tick s).inputs = s.inputs := by rw [tick_eq]; rfl
@[simp] theorem tick_out : (tick s).out = s.out := by rw [tick_eq]; rfl

end Tick

/-- The registers of the unit behind its device registers are not changed by a tick. -/
theorem tick_vtu_eq (s : State) : ∃ sl d vb sp fr fb n, (tick s).vtu = { s.vtu with
    scanline := sl, dot := d, vblank := vb, sprite0 := sp, frameReady := fr, frameBuffer := fb
    oracleDraws := n } := by
  unfold tick sprite0Draw positionEvent vblankStart preRender frameEnd
  dsimp only
  split <;> (try split) <;> (try split) <;> (try split) <;> exact ⟨_, _, _, _, _, _, _, rfl⟩

/-- A tick moves to the next position. -/
theorem tick_position (s : State) :
    ((tick s).vtu.scanline, (tick s).vtu.dot) = nextPosition s.vtu.scanline s.vtu.dot := by
  unfold tick sprite0Draw positionEvent vblankStart preRender frameEnd
  dsimp only
  split <;> (try split) <;> (try split) <;> (try split) <;> rfl

section TickVtu
variable (s : State)

@[simp] theorem tick_vtu_ctrl : (tick s).vtu.ctrl = s.vtu.ctrl := by
  obtain ⟨_, _, _, _, _, _, _, h⟩ := tick_vtu_eq s; rw [h]
@[simp] theorem tick_vtu_mask : (tick s).vtu.mask = s.vtu.mask := by
  obtain ⟨_, _, _, _, _, _, _, h⟩ := tick_vtu_eq s; rw [h]
@[simp] theorem tick_vtu_writeLatch : (tick s).vtu.writeLatch = s.vtu.writeLatch := by
  obtain ⟨_, _, _, _, _, _, _, h⟩ := tick_vtu_eq s; rw [h]
@[simp] theorem tick_vtu_vramAddr : (tick s).vtu.vramAddr = s.vtu.vramAddr := by
  obtain ⟨_, _, _, _, _, _, _, h⟩ := tick_vtu_eq s; rw [h]
@[simp] theorem tick_vtu_scrollX : (tick s).vtu.scrollX = s.vtu.scrollX := by
  obtain ⟨_, _, _, _, _, _, _, h⟩ := tick_vtu_eq s; rw [h]
@[simp] theorem tick_vtu_scrollY : (tick s).vtu.scrollY = s.vtu.scrollY := by
  obtain ⟨_, _, _, _, _, _, _, h⟩ := tick_vtu_eq s; rw [h]
@[simp] theorem tick_vtu_oamAddr : (tick s).vtu.oamAddr = s.vtu.oamAddr := by
  obtain ⟨_, _, _, _, _, _, _, h⟩ := tick_vtu_eq s; rw [h]
@[simp] theorem tick_vtu_oam : (tick s).vtu.oam = s.vtu.oam := by
  obtain ⟨_, _, _, _, _, _, _, h⟩ := tick_vtu_eq s; rw [h]
@[simp] theorem tick_vtu_vram : (tick s).vtu.vram = s.vtu.vram := by
  obtain ⟨_, _, _, _, _, _, _, h⟩ := tick_vtu_eq s; rw [h]

end TickVtu

section Ticks
variable (n : Nat) (s : State)

@[simp] theorem ticks_a : (ticks n s).a = s.a := by
  induction n generalizing s with
  | zero => rfl
  | succ n ih => simp [ticks, ih]
@[simp] theorem ticks_x : (ticks n s).x = s.x := by
  induction n generalizing s with
  | zero => rfl
  | succ n ih => simp [ticks, ih]
@[simp] theorem ticks_y : (ticks n s).y = s.y := by
  induction n generalizing s with
  | zero => rfl
  | succ n ih => simp [ticks, ih]
@[simp] theorem ticks_sp : (ticks n s).sp = s.sp := by
  induction n generalizing s with
  | zero => rfl
  | succ n ih => simp [ticks, ih]
@[simp] theorem ticks_pc : (ticks n s).pc = s.pc := by
  induction n generalizing s with
  | zero => rfl
  | succ n ih => simp [ticks, ih]
@[simp] theorem ticks_p : (ticks n s).p = s.p := by
  induction n generalizing s with
  | zero => rfl
  | succ n ih => simp [ticks, ih]
@[simp] theorem ticks_halted : (ticks n s).halted = s.halted := by
  induction n generalizing s with
  | zero => rfl
  | succ n ih => simp [ticks, ih]
@[simp] theorem ticks_faultOpcode : (ticks n s).faultOpcode = s.faultOpcode := by
  induction n generalizing s with
  | zero => rfl
  | succ n ih => simp [ticks, ih]
@[simp] theorem ticks_ram : (ticks n s).ram = s.ram := by
  induction n generalizing s with
  | zero => rfl
  | succ n ih => simp [ticks, ih]
@[simp] theorem ticks_cart : (ticks n s).cart = s.cart := by
  induction n generalizing s with
  | zero => rfl
  | succ n ih => simp [ticks, ih]
@[simp] theorem ticks_busDraws : (ticks n s).busDraws = s.busDraws := by
  induction n generalizing s with
  | zero => rfl
  | succ n ih => simp [ticks, ih]
@[simp] theorem ticks_resetDone : (ticks n s).resetDone = s.resetDone := by
  induction n generalizing s with
  | zero => rfl
  | succ n ih => simp [ticks, ih]
@[simp] theorem ticks_inputs : (ticks n s).inputs = s.inputs := by
  induction n generalizing s with
  | zero => rfl
  | succ n ih => simp [ticks, ih]
@[simp] theorem ticks_out : (ticks n s).out = s.out := by
  induction n generalizing s with
  | zero => rfl
  | succ n ih => simp [ticks, ih]
@[simp] theorem ticks_vtu_ctrl : (ticks n s).vtu.ctrl = s.vtu.ctrl := by
  induction n generalizing s with
  | zero => rfl
  | succ n ih => simp [ticks, ih]
@[simp] theorem ticks_vtu_mask : (ticks n s).vtu.mask = s.vtu.mask := by
  induction n generalizing s with
  | zero => rfl
  | succ n ih => simp [ticks, ih]
@[simp] theorem ticks_vtu_writeLatch : (ticks n s).vtu.writeLatch = s.vtu.writeLatch := by
  induction n generalizing s with
  | zero => rfl
  | succ n ih => simp [ticks, ih]
@[simp] theorem ticks_vtu_vramAddr : (ticks n s).vtu.vramAddr = s.vtu.vramAddr := by
  induction n generalizing s with
  | zero => rfl
  | succ n ih => simp [ticks, ih]
@[simp] theorem ticks_vtu_scrollX : (ticks n s).vtu.scrollX = s.vtu.scrollX := by
  induction n generalizing s with
  | zero => rfl
  | succ n ih => simp [ticks, ih]
@[simp] theorem ticks_vtu_scrollY : (ticks n s).vtu.scrollY = s.vtu.scrollY := by
  induction n generalizing s with
  | zero => rfl
  | succ n ih => simp [ticks, ih]
@[simp] theorem ticks_vtu_oamAddr : (ticks n s).vtu.oamAddr = s.vtu.oamAddr := by
  induction n generalizing s with
  | zero => rfl
  | succ n ih => simp [ticks, ih]
@[simp] theorem ticks_vtu_oam : (ticks n s).vtu.oam = s.vtu.oam := by
  induction n generalizing s with
  | zero => rfl
  | succ n ih => simp [ticks, ih]
@[simp] theorem ticks_vtu_vram : (ticks n s).vtu.vram = s.vtu.vram := by
  induction n generalizing s with
  | zero => rfl
  | succ n ih => simp [ticks, ih]

end Ticks

theorem ticks_add (m n : Nat) (s : State) : ticks (m + n) s = ticks n (ticks m s) := by
  induction m generalizing s with
  | zero => simp [ticks]
  | succ m ih => rw [Nat.add_right_comm]; exact ih (tick s)

theorem ticks_succ (n : Nat) (s : State) : ticks (n + 1) s = tick (ticks n s) := ticks_add n 1 s

/-- A property every tick keeps is kept by an advance. -/
theorem ticks_keeps {p : State → Prop} (step : ∀ s, p s → p (tick s)) (n : Nat) {s : State} (h : p s) :
    p (ticks n s) := by
  induction n generalizing s with
  | zero => exact h
  | succ n ih => exact ih (step s h)

section Advance
variable (c : Nat) (s : State)

@[simp] theorem advance_a : (advanceCycles c s).a = s.a := ticks_a _ s
@[simp] theorem advance_x : (advanceCycles c s).x = s.x := ticks_x _ s
@[simp] theorem advance_y : (advanceCycles c s).y = s.y := ticks_y _ s
@[simp] theorem advance_sp : (advanceCycles c s).sp = s.sp := ticks_sp _ s
@[simp] theorem advance_pc : (advanceCycles c s).pc = s.pc := ticks_pc _ s
@[simp] theorem advance_p : (advanceCycles c s).p = s.p := ticks_p _ s
@[simp] theorem advance_halted : (advanceCycles c s).halted = s.halted := ticks_halted _ s
@[simp] theorem advance_faultOpcode : (advanceCycles c s).faultOpcode = s.faultOpcode := ticks_faultOpcode _ s
@[simp] theorem advance_ram : (advanceCycles c s).ram = s.ram := ticks_ram _ s
@[simp] theorem advance_cart : (advanceCycles c s).cart = s.cart := ticks_cart _ s
@[simp] theorem advance_busDraws : (advanceCycles c s).busDraws = s.busDraws := ticks_busDraws _ s
@[simp] theorem advance_resetDone : (advanceCycles c s).resetDone = s.resetDone := ticks_resetDone _ s
@[simp] theorem advance_inputs : (advanceCycles c s).inputs = s.inputs := ticks_inputs _ s
@[simp] theorem advance_out : (advanceCycles c s).out = s.out := ticks_out _ s
@[simp] theorem advance_vtu_ctrl : (advanceCycles c s).vtu.ctrl = s.vtu.ctrl := ticks_vtu_ctrl _ s
@[simp] theorem advance_vtu_mask : (advanceCycles c s).vtu.mask = s.vtu.mask := ticks_vtu_mask _ s
@[simp] theorem advance_vtu_writeLatch : (advanceCycles c s).vtu.writeLatch = s.vtu.writeLatch := ticks_vtu_writeLatch _ s
@[simp] theorem advance_vtu_vramAddr : (advanceCycles c s).vtu.vramAddr = s.vtu.vramAddr := ticks_vtu_vramAddr _ s
@[simp] theorem advance_vtu_scrollX : (advanceCycles c s).vtu.scrollX = s.vtu.scrollX := ticks_vtu_scrollX _ s
@[simp] theorem advance_vtu_scrollY : (advanceCycles c s).vtu.scrollY = s.vtu.scrollY := ticks_vtu_scrollY _ s
@[simp] theorem advance_vtu_oamAddr : (advanceCycles c s).vtu.oamAddr = s.vtu.oamAddr := ticks_vtu_oamAddr _ s
@[simp] theorem advance_vtu_oam : (advanceCycles c s).vtu.oam = s.vtu.oam := ticks_vtu_oam _ s
@[simp] theorem advance_vtu_vram : (advanceCycles c s).vtu.vram = s.vtu.vram := ticks_vtu_vram _ s

@[simp] theorem advance_zero : advanceCycles 0 s = s := rfl

end Advance

/-- On the frame, the next position is one dot further, modulo the frame. -/
theorem nextPosition_frameDot {sl d : Nat} (hs : sl < Config.scanlinesPerFrame)
    (hd : d < Config.dotsPerScanline) :
    (nextPosition sl d).1 < Config.scanlinesPerFrame ∧ (nextPosition sl d).2 < Config.dotsPerScanline ∧
      (nextPosition sl d).1 * Config.dotsPerScanline + (nextPosition sl d).2 =
        (sl * Config.dotsPerScanline + d + 1) % frameDots := by
  have hs' : sl < 262 := hs
  have hd' : d < 341 := hd
  change (if d + 1 = 341 then if sl + 1 = 262 then (0, 0) else (sl + 1, 0) else (sl, d + 1)).1 < 262 ∧
    (if d + 1 = 341 then if sl + 1 = 262 then (0, 0) else (sl + 1, 0) else (sl, d + 1)).2 < 341 ∧
    (if d + 1 = 341 then if sl + 1 = 262 then (0, 0) else (sl + 1, 0) else (sl, d + 1)).1 * 341 +
      (if d + 1 = 341 then if sl + 1 = 262 then (0, 0) else (sl + 1, 0) else (sl, d + 1)).2 =
      (sl * 341 + d + 1) % 89342
  by_cases h1 : d + 1 = 341
  · by_cases h2 : sl + 1 = 262
    · rw [if_pos h1, if_pos h2]; dsimp only; omega
    · rw [if_pos h1, if_neg h2]; dsimp only; omega
  · rw [if_neg h1]; dsimp only; omega

theorem tick_positionOk {s : State} (h : positionOk s.vtu = true) : positionOk (tick s).vtu = true := by
  simp only [positionOk, Bool.and_eq_true, decide_eq_true_eq] at h ⊢
  have hp := tick_position s
  have hn := nextPosition_frameDot h.1 h.2
  rw [← hp] at hn
  exact ⟨hn.1, hn.2.1⟩

theorem advance_positionOk (c : Nat) {s : State} (h : positionOk s.vtu = true) :
    positionOk (advanceCycles c s).vtu = true :=
  ticks_keeps (p := fun s => positionOk s.vtu = true) (fun _ h => tick_positionOk h) _ h

end Sys2Proof.Machine
end

