-- ==== Sys2Proof/Laws/Step.lean ====
section
/-! SUPPORT. What a step is in each situation at a boundary, and what the host's actions can do. -/

namespace Sys2Proof.Machine

/-! ## The host -/

theorem nextBoundary_state (s : State) : (nextBoundary s).2 = s.setInputs s.inputs.tail := by
  unfold nextBoundary; split <;> simp_all [State.setInputs]
  cases s; simp_all

/-- Reset changes `P.I`, `PC`, the NMI latch, the unit and the outputs; with a cartridge the vector
read changes nothing else. -/
theorem resetMachine_eq {c : Cartridge} {s : State} (hc : s.cart = some c) :
    resetMachine s = { s with
      p := withI s.p true, pc := vectorWord c .reset, nmiPending := false
      vtu := resetVtu s.vtu, resetDone := true, out := ⟨Config.entryCycles, none⟩ } := by
  have h : raiseInterrupt .reset s = (Config.entryCycles, enterVector .reset s) :=
    raiseInterrupt_taken (Or.inl (by decide))
  simp only [resetMachine, h, enterVector_eq .reset hc]
  rfl

/-- A halted machine accepts no host action. -/
theorem hostAct_halted {s : State} (h : s.halted = true) (act : HostAction) : hostAct act s = s := by
  simp [hostAct, hostEnabled, h]

theorem hostActs_halted {s : State} (h : s.halted = true) (acts : List HostAction) :
    hostActs acts s = s := by
  induction acts with
  | nil => rfl
  | cons a rest ih => simp [hostActs, hostAct_halted h, ih]

/-- An installed cartridge is never replaced by the host. -/
theorem hostAct_cart {c : Cartridge} {s : State} (hc : s.cart = some c) (act : HostAction) :
    (hostAct act s).cart = some c := by
  unfold hostAct
  split
  · rename_i hen
    cases act
    case installRoms prg chr => simp [hostEnabled, hc] at hen
    case reset => simp only [resetMachine_eq hc, hc]
    all_goals simpa [frameRead] using hc
  · exact hc

/-- A property every enabled host action keeps is kept by all of a boundary. -/
theorem hostActs_keeps {p : State → Prop} (one : ∀ act s, p s → p (hostAct act s))
    (acts : List HostAction) {s : State} (h : p s) : p (hostActs acts s) := by
  induction acts generalizing s with
  | nil => exact h
  | cons a rest ih => exact ih (one a s h)

/-! ## Fetching -/

/-- A fetch of one byte moves `PC` on by one and changes no more than its bus read does. -/
theorem fetch8_onlyReads (s : State) : OnlyReads (s.setPc (s.pc + 1)) (fetch8 s).2 := by
  obtain ⟨vb, wl, va, n, h⟩ := memRead_onlyReads s.pc s
  exact ⟨vb, wl, va, n, by simp only [fetch8]; rw [h]; rfl⟩

/-- `OnlyReads` does not look at `PC`. -/
theorem OnlyReads.setPc {s t : State} (h : OnlyReads s t) (w : Word) : OnlyReads (s.setPc w) (t.setPc w) := by
  obtain ⟨vb, wl, va, n, rfl⟩ := h
  exact ⟨vb, wl, va, n, rfl⟩

/-- Two fetches of a byte. -/
theorem fetch8_twice {s t : State} {k : Word} (h : OnlyReads (s.setPc (s.pc + k)) t) :
    OnlyReads (s.setPc (s.pc + (k + 1))) (fetch8 t).2 := by
  have hpc : t.pc = s.pc + k := h.pc
  have h1 := fetch8_onlyReads t
  rw [hpc, BitVec.add_assoc] at h1
  exact (h.setPc (s.pc + (k + 1))).trans h1

/-- A fetch moves `PC` past the bytes it read and changes no more than its bus reads do. -/
theorem fetchBytes_onlyReads (s : State) :
    OnlyReads (s.setPc (s.pc + BitVec.ofNat 16 (fetchBytes s).1.length)) (fetchBytes s).2 := by
  have h1 := fetch8_onlyReads s
  have h2 := fetch8_twice h1
  have h3 := fetch8_twice h2
  cases hf : (tableEntry (fetch8 s).1).mode.format <;> simp only [fetchBytes, hf]
  · exact h1
  · exact h2
  · exact h3

/-! ## The step -/

/-- A halted machine answers the fault. -/
theorem machineStep_halted {s : State} (h : s.halted = true) (irq : Bool) :
    machineStep irq s = .fault (.unknownOpcode s.faultOpcode) := by simp [machineStep, h]

/-- A running machine services an interrupt or executes an instruction. -/
theorem machineStep_running {s : State} (h : s.running = true) (irq : Bool) :
    machineStep irq s =
      match serviceInterrupt irq s with
      | some t => .next (advanceCycles t.out.cycles t)
      | none => cpuStep s := by
  simp only [State.running, Bool.and_eq_true, Bool.not_eq_true'] at h
  have hc : s.cart.isNone = false := by cases hcart : s.cart <;> simp_all
  simp only [machineStep, h.1.1, hc, h.2, Bool.not_true, Bool.false_eq_true, if_false]
    <;> (cases serviceInterrupt irq s <;> rfl)

/-- A step answers a next state only on a machine that is running after the host's actions. -/
theorem machineStep_next {s t : State} {irq : Bool} (h : machineStep irq s = .next t) :
    s.running = true := by
  unfold machineStep at h
  split at h
  · cases h
  · split at h
    · cases h
    · split at h
      · cases h
      · rename_i h1 h2 h3
        cases hcart : s.cart <;> simp_all [State.running]

/-- When `CpuStep` answers a next state, and which. -/
theorem cpuStep_next {s t : State} (h : cpuStep s = .next t) :
    ∃ u, exec (instrOfBytes (fetchBytes s).1) (fetchBytes s).2 = .next u ∧
      t = advanceCycles u.out.cycles u := by
  unfold cpuStep at h
  dsimp only at h
  split at h
  · exact ⟨_, ‹_›, (Host.Outcome.next.inj h).symm⟩
  · cases h
  · cases h

/-- The interrupt taken at a boundary: which, and the state after its entry. -/
theorem serviceInterrupt_some {irq : Bool} {s t : State} (h : serviceInterrupt irq s = some t) :
    (s.nmiPending = true ∧ t = (enterVector .nonMaskable (pushFrame .nonMaskable
        (s.setNmiPending false))).setOut ⟨Config.entryCycles, none⟩) ∨
      (s.nmiPending = false ∧ flagI s.p = false ∧ irq = true ∧
        t = (enterVector .maskable (pushFrame .maskable s)).setOut ⟨Config.entryCycles, none⟩) := by
  unfold serviceInterrupt at h
  split at h
  · rename_i hn
    rw [raiseInterrupt_taken (Or.inl (by decide))] at h
    exact Or.inl ⟨hn, (Option.some.inj h).symm⟩
  · rename_i hn
    split at h
    · rename_i hi
      simp only [Bool.and_eq_true, Bool.not_eq_true'] at hi
      rw [raiseInterrupt_taken (Or.inr hi.1)] at h
      exact Or.inr ⟨by simpa using hn, hi.1, hi.2, (Option.some.inj h).symm⟩
    · cases h

end Sys2Proof.Machine
end

