-- ==== Sys2Proof/Tests/Slice0.lean ====
section
/-! SUPPORT. The model's own tests: which terms are well formed, decoding of words written out from the
spec, one step per vector of spec/95_test_vectors.md, and for every statement with hypotheses a
concrete input that meets them. -/

namespace Sys2Proof.Tests

set_option Elab.async false

open Sys2Proof Sys2Proof.Machine

/-! ## Helpers -/

/-- The vectors of the third part of 95_test_vectors.md: NMI 0xA000, Reset 0x8000, IRQ 0x9000. -/
def vectors : Memory := [(0x7FFB, 0xA0), (0x7FFD, 0x80), (0x7FFF, 0x90)]

/-- The base state of 95_test_vectors.md with the bytes `code` at the bus address `org`. -/
def machine (org : Nat) (code : List Byte) (a x y sp p : Byte) (ram : Memory) : State :=
  { State.reset with
    a := a, x := x, y := y, sp := sp, p := p, pc := BitVec.ofNat 16 org, ram := ram
    cart := some ⟨⟨32768, Memory.ofBytes (org - 0x8000) code ++ vectors⟩, ⟨8192, []⟩⟩ }

/-- The base state with a NOP at `PC`. -/
def base : State := machine 0x8000 [0xEA] 0 0 0 0xFE 0x24 []

/-- Its cartridge. -/
def baseCart : Cartridge := ⟨⟨32768, Memory.ofBytes 0 [0xEA] ++ vectors⟩, ⟨8192, []⟩⟩

/-- Whether an outcome is a next state of which `f` holds. -/
def nextHas (o : Host.Outcome State Fault Refusal) (f : State → Bool) : Bool :=
  match o with
  | .next t => f t
  | .fault _ | .refused _ => false

/-- What a vector lists: the registers after the step, `RAM` and the cost. -/
structure Seen where
  a : Byte
  x : Byte
  y : Byte
  sp : Byte
  p : Byte
  pc : Word
  ram : Memory
  cycles : Nat
  deriving DecidableEq, Repr

/-- What one step leaves. -/
def after (s : State) : Option Seen :=
  match step s with
  | .next t => some ⟨t.a, t.x, t.y, t.sp, t.p, t.pc, t.ram, t.out.cycles⟩
  | .fault _ | .refused _ => none

/-- The base state with the unit at a position. -/
def atDot (scanline dot : Nat) (ctrl : Byte) (vblank : Bool) : State :=
  { base with vtu := { base.vtu with scanline := scanline, dot := dot, ctrl := ctrl, vblank := vblank } }

/-! ## Well-formed terms: one ill-formed term, or more, for each check -/

theorem test_wf_group_one : (Instr.lda .accumulator).wf = false ∧ (Instr.and (.zeroPageY 0)).wf = false ∧
    (Instr.ora (.indirect 0)).wf = false ∧ (Instr.eor .accumulator).wf = false ∧
    (Instr.adc (.zeroPageY 0)).wf = false ∧ (Instr.sbc (.indirect 0)).wf = false ∧
    (Instr.cmp .accumulator).wf = false := by decide
theorem test_wf_index_loads : (Instr.ldx (.zeroPageX 0)).wf = false ∧ (Instr.ldx (.absoluteX 0)).wf = false ∧
    (Instr.ldy (.zeroPageY 0)).wf = false ∧ (Instr.ldy (.absoluteY 0)).wf = false := by decide
theorem test_wf_stores : (Instr.sta (.immediate 0)).wf = false ∧ (Instr.stx (.absoluteY 0)).wf = false ∧
    (Instr.stx (.zeroPageX 0)).wf = false ∧ (Instr.sty (.absoluteX 0)).wf = false := by decide
theorem test_wf_compare_index : (Instr.cpx (.zeroPageX 0)).wf = false ∧
    (Instr.cpy (.absoluteX 0)).wf = false ∧ (Instr.bit (.immediate 0)).wf = false := by decide
theorem test_wf_modify : (Instr.inc .accumulator).wf = false ∧ (Instr.dec (.absoluteY 0)).wf = false ∧
    (Instr.asl (.immediate 0)).wf = false ∧ (Instr.lsr (.indirectX 0)).wf = false ∧
    (Instr.rol (.zeroPageY 0)).wf = false ∧ (Instr.ror (.indirectY 0)).wf = false := by decide
theorem test_wf_jump : (Instr.jmp (.absoluteX 0)).wf = false ∧ (Instr.jmp (.zeroPage 0)).wf = false ∧
    (Instr.jmp (.indirect 0)).wf = true := by decide
theorem test_wf_illegal_byte : (Instr.ill 0xEA).wf = false ∧ (Instr.ill 0x02).wf = true := by decide

/-! ## Decoding: words from 30_encoding.md rule R113, the matrix of rule R110, the tables of 95 -/

theorem test_decode_load : decode [0xBD, 0x34, 0x12] = .ok (.lda (.absoluteX 0x1234), []) := by rfl
theorem test_decode_load_zero_page : decode [0xA5, 0x10] = .ok (.lda (.zeroPage 0x10), []) := by rfl
theorem test_decode_store : decode [0x9D, 0xFF, 0x10] = .ok (.sta (.absoluteX 0x10FF), []) := by rfl
theorem test_decode_transfer : decode [0xBA] = .ok (.tsx, []) := by rfl
theorem test_decode_stack : decode [0x08] = .ok (.php, []) := by rfl
theorem test_decode_logic : decode [0x59, 0x34, 0x12] = .ok (.eor (.absoluteY 0x1234), []) := by rfl
theorem test_decode_add : decode [0x7D, 0xFF, 0x10] = .ok (.adc (.absoluteX 0x10FF), []) := by rfl
theorem test_decode_compare : decode [0xE4, 0x10] = .ok (.cpx (.zeroPage 0x10), []) := by rfl
theorem test_decode_incdec : decode [0xCE, 0x10, 0x00] = .ok (.dec (.absolute 0x0010), []) := by rfl
theorem test_decode_shift : decode [0x76, 0x10] = .ok (.ror (.zeroPageX 0x10), []) := by rfl
theorem test_decode_jump : decode [0x6C, 0xFF, 0x02] = .ok (.jmp (.indirect 0x02FF), []) := by rfl
theorem test_decode_call : decode [0x20, 0x00, 0x90] = .ok (.jsr 0x9000, []) := by rfl
theorem test_decode_branch : decode [0xD0, 0xF9] = .ok (.bne 0xF9, []) := by rfl
theorem test_decode_flag : decode [0xB8] = .ok (.clv, []) := by rfl
theorem test_decode_system : decode [0x40] = .ok (.rti, []) := by rfl
theorem test_decode_illegal : decode [0xFF] = .ok (.ill 0xFF, []) := by rfl
theorem test_decode_truncated : decode [0xAD, 0x34] = .error (.truncated 0xAD) := by rfl
theorem test_decode_empty : decode [] = .error .empty := by rfl
theorem test_table_word : decodeTableWord 24 0x1234BD = some (.lda (.absoluteX 0x1234)) ∧
    decodeTableWord 8 0xBD = some (.lda (.absoluteX 0)) ∧ decodeTableWord 16 0xF9D0 = some (.bne 0xF9) := by
  decide +kernel
theorem test_with_fetch_word :
    nextHas (step (State.reset.withFetchWord 16 0x80A9)) (fun t => t.a = 0x80 && flagN t.p) = true := by
  decide +kernel

/-! ## One step per vector -/

/-! Loads and stores: spec/95_test_vectors.md, the rows named after the theorems. -/

theorem test_lda_T40_5 : after (machine 0x8000 [0xB1, 0x20] 0x00 0x00 0x01 0xFE 0x24 [(0x0020, 0xFF), (0x0021, 0x02), (0x0300, 0x55)])
    = some ⟨0x55, 0x00, 0x01, 0xFE, 0x24, 0x8002, [(0x0020, 0xFF), (0x0021, 0x02), (0x0300, 0x55)], 6⟩ := by decide +kernel
theorem test_lda_T40_6 : after (machine 0x8000 [0xB1, 0xFF] 0x00 0x00 0x00 0xFE 0x24 [(0x0000, 0x03), (0x0300, 0x99)])
    = some ⟨0x99, 0x00, 0x00, 0xFE, 0xA4, 0x8002, [(0x0000, 0x03), (0x0300, 0x99)], 5⟩ := by decide +kernel
theorem test_ldx_T40_8 : after (machine 0x8000 [0xB6, 0xF0] 0x00 0x00 0x20 0xFE 0x24 [(0x0010, 0x33), (0x0110, 0x44)])
    = some ⟨0x00, 0x33, 0x20, 0xFE, 0x24, 0x8002, [(0x0010, 0x33), (0x0110, 0x44)], 4⟩ := by decide +kernel
theorem test_ldx_T40_10 : after (machine 0x8000 [0xBE, 0x34, 0x12] 0x00 0x00 0xFF 0xFE 0x24 [(0x0333, 0x81)])
    = some ⟨0x00, 0x81, 0xFF, 0xFE, 0xA4, 0x8003, [(0x0333, 0x81)], 5⟩ := by decide +kernel
theorem test_sta_T40_11 : after (machine 0x8000 [0x9D, 0xFF, 0x10] 0xAB 0x01 0x00 0xFE 0x24 [])
    = some ⟨0xAB, 0x01, 0x00, 0xFE, 0x24, 0x8003, [(0x0100, 0xAB)], 5⟩ := by decide +kernel
theorem test_sta_T40_16 : after (machine 0x8000 [0x91, 0x10] 0x11 0x00 0xFF 0xFE 0x24 [(0x0010, 0x01), (0x0011, 0x02)])
    = some ⟨0x11, 0x00, 0xFF, 0xFE, 0x24, 0x8002, [(0x0010, 0x01), (0x0011, 0x02), (0x0300, 0x11)], 6⟩ := by decide +kernel
theorem test_stx_T40_14 : after (machine 0x8000 [0x96, 0xFF] 0x00 0x77 0x02 0xFE 0x24 [])
    = some ⟨0x00, 0x77, 0x02, 0xFE, 0x24, 0x8002, [(0x0001, 0x77)], 4⟩ := by decide +kernel
theorem test_sty_T40_15 : after (machine 0x8000 [0x94, 0x10] 0x00 0xFF 0x66 0xFE 0x24 [])
    = some ⟨0x00, 0xFF, 0x66, 0xFE, 0x24, 0x8002, [(0x000F, 0x66)], 4⟩ := by decide +kernel
/-! Transfers and the stack: spec/95_test_vectors.md, the rows named after the theorems. -/

theorem test_tax_T41_1 : after (machine 0x8000 [0xAA] 0x00 0x55 0x00 0xFE 0x24 [])
    = some ⟨0x00, 0x00, 0x00, 0xFE, 0x26, 0x8001, [], 2⟩ := by decide +kernel
theorem test_tay_T41_2 : after (machine 0x8000 [0xA8] 0x80 0x00 0x00 0xFE 0x24 [])
    = some ⟨0x80, 0x00, 0x80, 0xFE, 0xA4, 0x8001, [], 2⟩ := by decide +kernel
theorem test_txa_T41_3 : after (machine 0x8000 [0x8A] 0x80 0x7F 0x00 0xFE 0xA4 [])
    = some ⟨0x7F, 0x7F, 0x00, 0xFE, 0x24, 0x8001, [], 2⟩ := by decide +kernel
theorem test_tya_T41_4 : after (machine 0x8000 [0x98] 0x01 0x00 0x00 0xFE 0x24 [])
    = some ⟨0x00, 0x00, 0x00, 0xFE, 0x26, 0x8001, [], 2⟩ := by decide +kernel
theorem test_tsx_T41_5 : after (machine 0x8000 [0xBA] 0x00 0x00 0x00 0xFE 0x24 [])
    = some ⟨0x00, 0xFE, 0x00, 0xFE, 0xA4, 0x8001, [], 2⟩ := by decide +kernel
theorem test_txs_T41_6 : after (machine 0x8000 [0x9A] 0x00 0x00 0x00 0xFE 0x24 [])
    = some ⟨0x00, 0x00, 0x00, 0x00, 0x24, 0x8001, [], 2⟩ := by decide +kernel
theorem test_pha_T41_7 : after (machine 0x8000 [0x48] 0xC3 0x00 0x00 0x00 0x24 [])
    = some ⟨0xC3, 0x00, 0x00, 0xFF, 0x24, 0x8001, [(0x0100, 0xC3)], 3⟩ := by decide +kernel
theorem test_pla_T41_8 : after (machine 0x8000 [0x68] 0x00 0x00 0x00 0xFF 0x24 [])
    = some ⟨0x00, 0x00, 0x00, 0x00, 0x26, 0x8001, [], 4⟩ := by decide +kernel
theorem test_php_T41_9 : after (machine 0x8000 [0x08] 0x00 0x00 0x00 0xFE 0x24 [])
    = some ⟨0x00, 0x00, 0x00, 0xFD, 0x24, 0x8001, [(0x01FE, 0x34)], 3⟩ := by decide +kernel
theorem test_plp_T41_11 : after (machine 0x8000 [0x28] 0x00 0x00 0x00 0xFD 0x24 [(0x01FE, 0xFF)])
    = some ⟨0x00, 0x00, 0x00, 0xFE, 0xEF, 0x8001, [(0x01FE, 0xFF)], 4⟩ := by decide +kernel
theorem test_plp_T41_12 : after (machine 0x8000 [0x28] 0x00 0x00 0x00 0xFD 0xEF [])
    = some ⟨0x00, 0x00, 0x00, 0xFE, 0x20, 0x8001, [], 4⟩ := by decide +kernel
/-! Logic: spec/95_test_vectors.md, the rows named after the theorems. -/

theorem test_and_T42_1 : after (machine 0x8000 [0x29, 0x0F] 0xF0 0x00 0x00 0xFE 0x24 [])
    = some ⟨0x00, 0x00, 0x00, 0xFE, 0x26, 0x8002, [], 2⟩ := by decide +kernel
theorem test_and_T42_2 : after (machine 0x8000 [0x25, 0x10] 0xFF 0x00 0x00 0xFE 0x24 [(0x0010, 0x80)])
    = some ⟨0x80, 0x00, 0x00, 0xFE, 0xA4, 0x8002, [(0x0010, 0x80)], 3⟩ := by decide +kernel
theorem test_ora_T42_3 : after (machine 0x8000 [0x09, 0x80] 0x01 0x00 0x00 0xFE 0x24 [])
    = some ⟨0x81, 0x00, 0x00, 0xFE, 0xA4, 0x8002, [], 2⟩ := by decide +kernel
theorem test_ora_T42_9 : after (machine 0x8000 [0x01, 0x10] 0x01 0x04 0x00 0xFE 0x24 [(0x0015, 0x02), (0x0200, 0x10)])
    = some ⟨0x11, 0x04, 0x00, 0xFE, 0x24, 0x8002, [(0x0015, 0x02), (0x0200, 0x10)], 6⟩ := by decide +kernel
theorem test_eor_T42_5 : after (machine 0x8000 [0x49, 0xFF] 0xFF 0x00 0x00 0xFE 0x24 [])
    = some ⟨0x00, 0x00, 0x00, 0xFE, 0x26, 0x8002, [], 2⟩ := by decide +kernel
theorem test_eor_T42_6 : after (machine 0x8000 [0x59, 0x34, 0x12] 0x0F 0x00 0xFF 0xFE 0x24 [(0x0333, 0xF0)])
    = some ⟨0xFF, 0x00, 0xFF, 0xFE, 0xA4, 0x8003, [(0x0333, 0xF0)], 5⟩ := by decide +kernel
theorem test_bit_T42_7 : after (machine 0x8000 [0x24, 0x10] 0x3F 0x00 0x00 0xFE 0x24 [(0x0010, 0xC0)])
    = some ⟨0x3F, 0x00, 0x00, 0xFE, 0xE6, 0x8002, [(0x0010, 0xC0)], 3⟩ := by decide +kernel
theorem test_bit_T42_8 : after (machine 0x8000 [0x2C, 0x10, 0x00] 0xFF 0x00 0x00 0xFE 0xE4 [(0x0010, 0x01)])
    = some ⟨0xFF, 0x00, 0x00, 0xFE, 0x24, 0x8003, [(0x0010, 0x01)], 4⟩ := by decide +kernel
/-! Arithmetic: spec/95_test_vectors.md, the rows named after the theorems. -/

theorem test_adc_T43_3 : after (machine 0x8000 [0x69, 0x01] 0x7F 0x00 0x00 0xFE 0x24 [])
    = some ⟨0x80, 0x00, 0x00, 0xFE, 0xE4, 0x8002, [], 2⟩ := by decide +kernel
theorem test_adc_T43_7 : after (machine 0x8000 [0x69, 0x7F] 0x00 0x00 0x00 0xFE 0x25 [])
    = some ⟨0x80, 0x00, 0x00, 0xFE, 0xE4, 0x8002, [], 2⟩ := by decide +kernel
theorem test_sbc_T43_12 : after (machine 0x8000 [0xE9, 0x01] 0x80 0x00 0x00 0xFE 0x25 [])
    = some ⟨0x7F, 0x00, 0x00, 0xFE, 0x65, 0x8002, [], 2⟩ := by decide +kernel
theorem test_sbc_T43_14 : after (machine 0x8000 [0xE9, 0xFF] 0x00 0x00 0x00 0xFE 0x24 [])
    = some ⟨0x00, 0x00, 0x00, 0xFE, 0x26, 0x8002, [], 2⟩ := by decide +kernel
theorem test_cmp_T43_16 : after (machine 0x8000 [0xC9, 0x01] 0x00 0x00 0x00 0xFE 0x25 [])
    = some ⟨0x00, 0x00, 0x00, 0xFE, 0xA4, 0x8002, [], 2⟩ := by decide +kernel
theorem test_cmp_T43_18 : after (machine 0x8000 [0xC9, 0x7F] 0x80 0x00 0x00 0xFE 0x64 [])
    = some ⟨0x80, 0x00, 0x00, 0xFE, 0x65, 0x8002, [], 2⟩ := by decide +kernel
theorem test_cpx_T43_19 : after (machine 0x8000 [0xE4, 0x10] 0x00 0x05 0x00 0xFE 0x24 [(0x0010, 0x06)])
    = some ⟨0x00, 0x05, 0x00, 0xFE, 0xA4, 0x8002, [(0x0010, 0x06)], 3⟩ := by decide +kernel
theorem test_cpy_T43_20 : after (machine 0x8000 [0xC0, 0x00] 0x00 0x00 0xFF 0xFE 0x24 [])
    = some ⟨0x00, 0x00, 0xFF, 0xFE, 0xA5, 0x8002, [], 2⟩ := by decide +kernel
/-! Increment and decrement: spec/95_test_vectors.md, the rows named after the theorems. -/

theorem test_inc_T44_1 : after (machine 0x8000 [0xE6, 0x10] 0x00 0x00 0x00 0xFE 0x24 [(0x0010, 0xFF)])
    = some ⟨0x00, 0x00, 0x00, 0xFE, 0x26, 0x8002, [], 5⟩ := by decide +kernel
theorem test_inc_T44_5 : after (machine 0x8000 [0xFE, 0xFF, 0x00] 0x00 0x01 0x00 0xFE 0x24 [(0x0100, 0x0F)])
    = some ⟨0x00, 0x01, 0x00, 0xFE, 0x24, 0x8003, [(0x0100, 0x10)], 7⟩ := by decide +kernel
theorem test_dec_T44_3 : after (machine 0x8000 [0xC6, 0x10] 0x00 0x00 0x00 0xFE 0x24 [])
    = some ⟨0x00, 0x00, 0x00, 0xFE, 0xA4, 0x8002, [(0x0010, 0xFF)], 5⟩ := by decide +kernel
theorem test_dec_T44_4 : after (machine 0x8000 [0xCE, 0x10, 0x00] 0x00 0x00 0x00 0xFE 0x24 [(0x0010, 0x01)])
    = some ⟨0x00, 0x00, 0x00, 0xFE, 0x26, 0x8003, [], 6⟩ := by decide +kernel
theorem test_inx_T44_6 : after (machine 0x8000 [0xE8] 0x00 0xFF 0x00 0xFE 0x24 [])
    = some ⟨0x00, 0x00, 0x00, 0xFE, 0x26, 0x8001, [], 2⟩ := by decide +kernel
theorem test_iny_T44_7 : after (machine 0x8000 [0xC8] 0x00 0x00 0x7F 0xFE 0x24 [])
    = some ⟨0x00, 0x00, 0x80, 0xFE, 0xA4, 0x8001, [], 2⟩ := by decide +kernel
theorem test_dex_T44_8 : after (machine 0x8000 [0xCA] 0x00 0x01 0x00 0xFE 0x24 [])
    = some ⟨0x00, 0x00, 0x00, 0xFE, 0x26, 0x8001, [], 2⟩ := by decide +kernel
theorem test_dey_T44_9 : after (machine 0x8000 [0x88] 0x00 0x00 0x00 0xFE 0x24 [])
    = some ⟨0x00, 0x00, 0xFF, 0xFE, 0xA4, 0x8001, [], 2⟩ := by decide +kernel
/-! Shifts and rotates: spec/95_test_vectors.md, the rows named after the theorems. -/

theorem test_asl_T45_1 : after (machine 0x8000 [0x0A] 0x80 0x00 0x00 0xFE 0x24 [])
    = some ⟨0x00, 0x00, 0x00, 0xFE, 0x27, 0x8001, [], 2⟩ := by decide +kernel
theorem test_asl_T45_2 : after (machine 0x8000 [0x06, 0x10] 0x00 0x00 0x00 0xFE 0x25 [(0x0010, 0x40)])
    = some ⟨0x00, 0x00, 0x00, 0xFE, 0xA4, 0x8002, [(0x0010, 0x80)], 5⟩ := by decide +kernel
theorem test_lsr_T45_3 : after (machine 0x8000 [0x4A] 0x01 0x00 0x00 0xFE 0x24 [])
    = some ⟨0x00, 0x00, 0x00, 0xFE, 0x27, 0x8001, [], 2⟩ := by decide +kernel
theorem test_lsr_T45_4 : after (machine 0x8000 [0x5E, 0xFF, 0x10] 0x00 0x01 0x00 0xFE 0xA4 [(0x0100, 0xFE)])
    = some ⟨0x00, 0x01, 0x00, 0xFE, 0x24, 0x8003, [(0x0100, 0x7F)], 7⟩ := by decide +kernel
theorem test_rol_T45_5 : after (machine 0x8000 [0x2A] 0x80 0x00 0x00 0xFE 0x25 [])
    = some ⟨0x01, 0x00, 0x00, 0xFE, 0x25, 0x8001, [], 2⟩ := by decide +kernel
theorem test_rol_T45_6 : after (machine 0x8000 [0x26, 0x10] 0x00 0x00 0x00 0xFE 0x24 [(0x0010, 0x40)])
    = some ⟨0x00, 0x00, 0x00, 0xFE, 0xA4, 0x8002, [(0x0010, 0x80)], 5⟩ := by decide +kernel
theorem test_ror_T45_8 : after (machine 0x8000 [0x6A] 0x00 0x00 0x00 0xFE 0x25 [])
    = some ⟨0x80, 0x00, 0x00, 0xFE, 0xA4, 0x8001, [], 2⟩ := by decide +kernel
theorem test_ror_T45_9 : after (machine 0x8000 [0x76, 0x10] 0x00 0xF0 0x00 0xFE 0x25 [(0x0000, 0x02)])
    = some ⟨0x00, 0xF0, 0x00, 0xFE, 0xA4, 0x8002, [(0x0000, 0x81)], 6⟩ := by decide +kernel
/-! Jumps, calls, returns: spec/95_test_vectors.md, the rows named after the theorems. -/

theorem test_jmp_T46_2 : after (machine 0x8000 [0x6C, 0xFF, 0x02] 0x00 0x00 0x00 0xFE 0x24 [(0x0200, 0x12), (0x02FF, 0x34), (0x0300, 0x56)])
    = some ⟨0x00, 0x00, 0x00, 0xFE, 0x24, 0x1234, [(0x0200, 0x12), (0x02FF, 0x34), (0x0300, 0x56)], 5⟩ := by decide +kernel
theorem test_jmp_T46_1 : after (machine 0x8000 [0x4C, 0x34, 0x12] 0x00 0x00 0x00 0xFE 0x24 [])
    = some ⟨0x00, 0x00, 0x00, 0xFE, 0x24, 0x1234, [], 3⟩ := by decide +kernel
theorem test_jsr_T46_4 : after (machine 0x8000 [0x20, 0x00, 0x90] 0x00 0x00 0x00 0x00 0x24 [])
    = some ⟨0x00, 0x00, 0x00, 0xFE, 0x24, 0x9000, [(0x0100, 0x80), (0x01FF, 0x02)], 6⟩ := by decide +kernel
theorem test_rts_T46_5 : after (machine 0x8000 [0x60] 0x00 0x00 0x00 0xFD 0x24 [(0x01FE, 0xFF), (0x01FF, 0xFF)])
    = some ⟨0x00, 0x00, 0x00, 0xFF, 0x24, 0x0000, [(0x01FE, 0xFF), (0x01FF, 0xFF)], 6⟩ := by decide +kernel
/-! Branches: spec/95_test_vectors.md, the rows named after the theorems. -/

theorem test_bne_T47_1 : after (machine 0x8000 [0xD0, 0x02] 0x00 0x00 0x00 0xFE 0x26 [])
    = some ⟨0x00, 0x00, 0x00, 0xFE, 0x26, 0x8002, [], 2⟩ := by decide +kernel
theorem test_bne_T47_2 : after (machine 0x8000 [0xD0, 0x02] 0x00 0x00 0x00 0xFE 0x24 [])
    = some ⟨0x00, 0x00, 0x00, 0xFE, 0x24, 0x8004, [], 3⟩ := by decide +kernel
theorem test_beq_T47_3 : after (machine 0x8000 [0xF0, 0x80] 0x00 0x00 0x00 0xFE 0x26 [])
    = some ⟨0x00, 0x00, 0x00, 0xFE, 0x26, 0x7F82, [], 4⟩ := by decide +kernel
theorem test_bcc_T47_4 : after (machine 0x80FD [0x90, 0x01] 0x00 0x00 0x00 0xFE 0x24 [])
    = some ⟨0x00, 0x00, 0x00, 0xFE, 0x24, 0x8100, [], 4⟩ := by decide +kernel
theorem test_bcs_T47_5 : after (machine 0x80FE [0xB0, 0x00] 0x00 0x00 0x00 0xFE 0x25 [])
    = some ⟨0x00, 0x00, 0x00, 0xFE, 0x25, 0x8100, [], 3⟩ := by decide +kernel
theorem test_bmi_T47_6 : after (machine 0x8000 [0x30, 0xFE] 0x00 0x00 0x00 0xFE 0xA4 [])
    = some ⟨0x00, 0x00, 0x00, 0xFE, 0xA4, 0x8000, [], 3⟩ := by decide +kernel
theorem test_bpl_T47_7 : after (machine 0x8000 [0x10, 0x7F] 0x00 0x00 0x00 0xFE 0x24 [])
    = some ⟨0x00, 0x00, 0x00, 0xFE, 0x24, 0x8081, [], 3⟩ := by decide +kernel
theorem test_bvc_T47_8 : after (machine 0x8000 [0x50, 0x05] 0x00 0x00 0x00 0xFE 0x64 [])
    = some ⟨0x00, 0x00, 0x00, 0xFE, 0x64, 0x8002, [], 2⟩ := by decide +kernel
theorem test_bvs_T47_9 : after (machine 0x8000 [0x70, 0x05] 0x00 0x00 0x00 0xFE 0x64 [])
    = some ⟨0x00, 0x00, 0x00, 0xFE, 0x64, 0x8007, [], 3⟩ := by decide +kernel
/-! Flags: spec/95_test_vectors.md, the rows named after the theorems. -/

theorem test_clc_T48_1 : after (machine 0x8000 [0x18] 0x00 0x00 0x00 0xFE 0xEF [])
    = some ⟨0x00, 0x00, 0x00, 0xFE, 0xEE, 0x8001, [], 2⟩ := by decide +kernel
theorem test_sec_T48_2 : after (machine 0x8000 [0x38] 0x00 0x00 0x00 0xFE 0x20 [])
    = some ⟨0x00, 0x00, 0x00, 0xFE, 0x21, 0x8001, [], 2⟩ := by decide +kernel
theorem test_cli_T48_3 : after (machine 0x8000 [0x58] 0x00 0x00 0x00 0xFE 0xEF [])
    = some ⟨0x00, 0x00, 0x00, 0xFE, 0xEB, 0x8001, [], 2⟩ := by decide +kernel
theorem test_sei_T48_4 : after (machine 0x8000 [0x78] 0x00 0x00 0x00 0xFE 0x20 [])
    = some ⟨0x00, 0x00, 0x00, 0xFE, 0x24, 0x8001, [], 2⟩ := by decide +kernel
theorem test_clv_T48_5 : after (machine 0x8000 [0xB8] 0x00 0x00 0x00 0xFE 0xEF [])
    = some ⟨0x00, 0x00, 0x00, 0xFE, 0xAF, 0x8001, [], 2⟩ := by decide +kernel
theorem test_cld_T48_6 : after (machine 0x8000 [0xD8] 0x00 0x00 0x00 0xFE 0xEF [])
    = some ⟨0x00, 0x00, 0x00, 0xFE, 0xE7, 0x8001, [], 2⟩ := by decide +kernel
theorem test_sed_T48_7 : after (machine 0x8000 [0xF8] 0x00 0x00 0x00 0xFE 0x20 [])
    = some ⟨0x00, 0x00, 0x00, 0xFE, 0x28, 0x8001, [], 2⟩ := by decide +kernel
/-! System: spec/95_test_vectors.md, the rows named after the theorems. -/

theorem test_brk_T49_1 : after (machine 0x8000 [0x00, 0xFF] 0x00 0x00 0x00 0xFE 0x20 [])
    = some ⟨0x00, 0x00, 0x00, 0xFB, 0x24, 0x9000, [(0x01FC, 0x30), (0x01FD, 0x02), (0x01FE, 0x80)], 7⟩ := by decide +kernel
theorem test_brk_T49_2 : after (machine 0x8000 [0x00, 0xFF] 0x00 0x00 0x00 0x01 0xE7 [])
    = some ⟨0x00, 0x00, 0x00, 0xFE, 0xE7, 0x9000, [(0x0100, 0x02), (0x0101, 0x80), (0x01FF, 0xF7)], 7⟩ := by decide +kernel
theorem test_rti_T49_3 : after (machine 0x8000 [0x40] 0x00 0x00 0x00 0xFB 0x24 [(0x01FC, 0xFF), (0x01FD, 0x34), (0x01FE, 0x12)])
    = some ⟨0x00, 0x00, 0x00, 0xFE, 0xEF, 0x1234, [(0x01FC, 0xFF), (0x01FD, 0x34), (0x01FE, 0x12)], 6⟩ := by decide +kernel
theorem test_nop_T49_4 : after (machine 0x8000 [0xEA] 0x00 0x00 0x00 0xFE 0x24 [])
    = some ⟨0x00, 0x00, 0x00, 0xFE, 0x24, 0x8001, [], 2⟩ := by decide +kernel
/-- T40-9 reads the unmapped window, a free value here: only the fields that do not rest on it. -/
theorem test_ldy_T40_9 : nextHas (step (machine 0x8000 [0xAC, 0x00, 0x40] 0 0 0x55 0xFE 0x24 []))
    (fun t => t.a = 0 && t.x = 0 && t.pc = 0x8003 && t.out.cycles = 4) = true := by decide +kernel
theorem test_ldy_immediate : after (machine 0x8000 [0xA0, 0x80] 0 0 0x55 0xFE 0x24 [])
    = some ⟨0, 0, 0x80, 0xFE, 0xA4, 0x8002, [], 2⟩ := by decide +kernel
theorem test_ill_T49_5 : nextHas (step (machine 0x8000 [0x02, 0xAA] 0 0 0 0xFE 0x24 []))
    (fun t => t.pc = 0x8001 && t.p = 0x24 && t.halted && t.faultOpcode = 0x02 && t.out.cycles = 0 &&
      t.vtu.dot = 0) = true := by decide +kernel
theorem test_ill_T49_6 : nextHas (step (machine 0x8000 [0xFF] 0 0 0 0xFE 0xE7 []))
    (fun t => t.pc = 0x8001 && t.p = 0xE7 && t.halted && t.faultOpcode = 0xFF) = true := by decide +kernel

/-! ## Interrupts and Reset: 95_test_vectors.md, the third part, rows I1 to I6 -/

theorem test_irq_I1 : after { machine 0x8000 [0xEA] 0 0 0 0xFE 0x20 [] with inputs := [⟨[], true⟩] }
    = some ⟨0, 0, 0, 0xFB, 0x24, 0x9000, [(0x01FC, 0x20), (0x01FE, 0x80)], 7⟩ := by decide +kernel
theorem test_irq_masked_I2 : after { base with inputs := [⟨[], true⟩] }
    = some ⟨0, 0, 0, 0xFE, 0x24, 0x8001, [], 2⟩ := by decide +kernel
theorem test_nmi_I3 : after { base with nmiPending := true }
    = some ⟨0, 0, 0, 0xFB, 0x24, 0xA000, [(0x01FC, 0x24), (0x01FE, 0x80)], 7⟩ := by decide +kernel
theorem test_priority_I4 :
    after { machine 0x8000 [0xEA] 0 0 0 0xFE 0x20 [] with inputs := [⟨[.nmiRequest], true⟩] }
    = some ⟨0, 0, 0, 0xFB, 0x24, 0xA000, [(0x01FC, 0x20), (0x01FE, 0x80)], 7⟩ := by decide +kernel

/-- The state of row I6 before its Reset. -/
def warm : State :=
  { machine 0x1234 [] 0x12 0x34 0x56 0x80 0xE3 [(0x0005, 0x09)] with
    nmiPending := true
    vtu := { Vtu.construct with
      scanline := 100, dot := 200, vblank := true, ctrl := 0x84, vramAddr := 0x2345, writeLatch := true } }

theorem test_reset_I6 :
    let t := hostAct .reset warm
    (t.a, t.x, t.y, t.sp, t.p, t.pc) = (0x12, 0x34, 0x56, 0x80, 0xE7, 0x8000) ∧ t.vtu = Vtu.construct ∧
      t.nmiPending = false ∧ t.ram = [(0x0005, 0x09)] ∧ t.out = ⟨7, none⟩ := by decide +kernel

/-! ## The unit and its registers: 95_test_vectors.md, the third part -/

theorem test_vblank_V4 : (tick (atDot 241 0 0x80 false)).vtu.vblank = true ∧
    (tick (atDot 241 0 0x80 false)).nmiPending = true := by decide +kernel
theorem test_prerender_V6 : (tick (atDot 261 0 0x80 true)).vtu.vblank = false ∧
    (tick (atDot 261 0 0x80 true)).vtu.sprite0 = false := by decide +kernel
theorem test_frame_V7 : (tick (atDot 261 339 0 false)).vtu.frameReady = true ∧
    (tick (atDot 261 340 0 false)).vtu.scanline = 0 := by decide +kernel
theorem test_latch_D2 :
    (memWrite 0x2006 0x08 (memRead 0x2002 (memWrite 0x2006 0x21 base)).2).vtu.vramAddr = 0x0800 := by
  decide +kernel
theorem test_latch_D4 : (memWrite 0x2006 0x21 (memWrite 0x2005 0x10 base)).vtu.scrollX = 0x10 ∧
    (memWrite 0x2006 0x21 (memWrite 0x2005 0x10 base)).vtu.vramAddr = 0x0021 := by decide +kernel
theorem test_data_D8 :
    let s := base.setVtu { base.vtu with vramAddr := 0xFFFF, vram := [(0x1FFF, 0x5A)] }
    (memRead 0x2007 s).1 = 0x5A ∧ (memRead 0x2007 s).2.vtu.vramAddr = 0 := by decide +kernel
theorem test_oam_D9 :
    let s := memWrite 0x2004 0x22 (memWrite 0x2004 0x11 (memWrite 0x2003 0xFF base))
    s.vtu.oam = [(0x00, 0x22), (0xFF, 0x11)] ∧ s.vtu.oamAddr = 0x01 ∧ (memRead 0x2004 s).1 = 0 := by
  decide +kernel
theorem test_mirror_D12 : (memWrite 0x3FF8 0x80 base).vtu.ctrl = 0x80 ∧
    (memWrite 0x200A 0x80 base).vtu.ctrl = 0 := by decide +kernel
theorem test_inc_device_D15 :
    nextHas (step ((machine 0x8000 [0xEE, 0x07, 0x20] 0 0 0 0xFE 0x24 []).setVtu
      { Vtu.construct with vramAddr := 0x2000, vram := [(0, 0x41), (1, 0x77)] }))
      (fun t => t.vtu.vram = [(0, 0x41), (1, 0x42)] && t.vtu.vramAddr = 0x2002 && t.p = 0x24 &&
        t.out.cycles = 6) = true := by decide +kernel

/-! ## Stops: a halted machine, no cartridge, no Reset yet, a term with no row -/

theorem test_stops :
    step { base with halted := true, faultOpcode := 0x02 } = .fault (.unknownOpcode 0x02) ∧
    step State.construct = .refused .noCartridge ∧
    step { base with resetDone := false } = .refused .notReset ∧
    exec (.sta (.immediate 0)) base = .refused .noSuchForm := ⟨rfl, rfl, rfl, rfl⟩

/-! ## Witnesses: for each statement with hypotheses, an input that meets them -/

theorem witness_DecodeOfEncode : (Instr.jmp (.indirect 0xFFFF)).wf = true ∧ (Instr.ill 0x02).wf = true := by
  decide
theorem witness_EncodeOfDecode : decode [0x6C, 0xFF, 0xFF, 0x00] = .ok (.jmp (.indirect 0xFFFF), [0x00]) := by
  rfl
/-- Lengths 1, 2, 3, an illegal byte, and a state whose next byte is the opcode. -/
theorem witness_LengthFromOpcode : (tableEntry 0x4C).mode.length = 3 ∧ (tableEntry 0xD0).mode.length = 2 ∧
    (tableEntry 0xEA).mode.length = 1 ∧ (tableEntry 0x02).mnemonic = .ILL ∧
    (fetch8 base).1 = 0xEA := by decide +kernel
theorem witness_TableExceptions : illegalOpcodes.contains 0x02 = true ∧ illegalOpcodes.contains 0xFF = true ∧
    illegalOpcodes.contains 0x00 = false ∧ illegalOpcodes.contains 0xFE = false := by decide
theorem witness_DisassembleAgrees : decode [0xEA] = .ok (.nop, []) ∧ (fetch8 base).1 = 0xEA ∧
    illegalOpcodes.contains 0x02 = true := ⟨rfl, by decide +kernel, by decide⟩
/-- An instruction of each length at `PC`. -/
theorem witness_FetchReadsOneInstruction : (fetchBytes base).1.length = 1 ∧
    (fetchBytes (machine 0x8000 [0xA9, 0x10] 0 0 0 0xFE 0x24 [])).1.length = 2 ∧
    (fetchBytes (machine 0x8000 [0xAD, 0x34, 0x12] 0 0 0 0xFE 0x24 [])).1.length = 3 := by decide +kernel
/-- Both ends of the `RAM` window with its last mirror, and of each program bank. -/
theorem witness_BackedWindows : (0x1FFF : Word).toNat ≤ 0x1FFF ∧ (0x07FF : Word).toNat ≤ 0x1FFF ∧
    (0x1FFF : Word).toNat % 0x0800 = (0x07FF : Word).toNat % 0x0800 ∧
    (base.setCart (some ⟨⟨0x4000, []⟩, ⟨8192, []⟩⟩)).cart = some ⟨⟨0x4000, []⟩, ⟨8192, []⟩⟩ ∧
    0x8000 ≤ (0x8000 : Word).toNat ∧ (0xBFFF : Word).toNat < 0xC000 ∧ 0x8000 ≤ (0xFFFF : Word).toNat := by
  decide +kernel
theorem witness_ProgramWritesIgnored : 0x8000 ≤ (0x8000 : Word).toNat ∧ 0x8000 ≤ (0xFFFF : Word).toNat := by
  decide
/-- The ends of the device window, with their register numbers, and of the unmapped window. -/
theorem witness_DeviceAndUnmappedWindows :
    (0x2000 ≤ (0x2000 : Word).toNat ∧ (0x2000 : Word).toNat ≤ 0x3FFF ∧ (0x2000 : Word).toNat % 8 = 0) ∧
    (0x2000 ≤ (0x3FFF : Word).toNat ∧ (0x3FFF : Word).toNat ≤ 0x3FFF ∧ (0x3FFF : Word).toNat % 8 = 7) ∧
    (0x4000 ≤ (0x4000 : Word).toNat ∧ (0x4000 : Word).toNat ≤ 0x7FFF) ∧
    (0x4000 ≤ (0x7FFF : Word).toNat ∧ (0x7FFF : Word).toNat ≤ 0x7FFF) := by decide
theorem witness_BusReadFrame : base.cart = some baseCart ∧ strange 0x1FFF = false ∧ strange 0x8000 = false ∧
    strange 0x2000 = true ∧ strange 0x7FFF = true := by decide +kernel

theorem witness_DirectAddresses : (Operand.zeroPage 0xFF).mode ≠ .accumulator ∧
    (Operand.zeroPage 0xFF).mode ≠ .immediate ∧ (Operand.indirectY 0xFF).mode ≠ .accumulator ∧
    (Operand.indirectY 0xFF).mode ≠ .immediate := by decide
/-- One operand in each addressing mode that has one. -/
def operands : List Operand :=
  [.accumulator, .immediate 0xFF, .zeroPage 0xFF, .zeroPageX 0xFF, .zeroPageY 0xFF, .absolute 0xFFFF,
   .absoluteX 0xFFFF, .absoluteY 0xFFFF, .indirect 0xFFFF, .indirectX 0xFF, .indirectY 0xFF]

/-- Whether each listed form is the mode of some operand, so that no form of a statement is empty. -/
def formsMet (forms : List Form) : Bool := forms.all fun f => operands.any fun o => f.mode = o.mode

theorem witness_Loads : formsMet formsLda ∧ formsMet formsLdx ∧ formsMet formsLdy := by decide
theorem witness_Stores : formsMet formsSta ∧ formsMet formsStx ∧ formsMet formsSty := by decide
theorem witness_Transfers : [Instr.tax, .tay, .txa, .tya, .tsx, .txs].all (·.mode = .implicit) := by decide
theorem witness_AccumulatorOnStack : [Instr.pha, .pla].all (·.mode = .implicit) := by decide
theorem witness_PushPullStatus : [Instr.php, .plp].all (·.mode = .implicit) := by decide
/-- The state after a JSR from the base state. -/
def called : State :=
  match exec (.jsr 0x9000) base with
  | .next t => t
  | .fault _ | .refused _ => base

/-- The status at reset, and a state other than `called` with its stack. -/
theorem witness_StackPairsRestore : statusOk base.p = true ∧ exec (.jsr 0x9000) base = .next called ∧
    (called.setA 7).sp = called.sp ∧ (∀ sp : Byte, stackByte (called.setA 7) sp = stackByte called sp) ∧
    (called.setA 7).a ≠ called.a :=
  ⟨by decide +kernel, rfl, rfl, fun _ => rfl, by decide +kernel⟩
theorem witness_Logic : formsMet formsAnd ∧ formsMet formsOra ∧ formsMet formsEor := by decide
theorem witness_BitTest : formsMet formsBit := by decide
theorem witness_AddWithCarryRule : formsMet formsAdc := by decide
theorem witness_SubtractWithBorrow : formsMet formsSbc := by decide
theorem witness_Compares : formsMet formsCmp ∧ formsMet formsCpx ∧ formsMet formsCpy := by decide
theorem witness_IncDecMemory : formsMet formsInc ∧ formsMet formsDec := by decide
theorem witness_IncDecRegisters : [Instr.inx, .iny, .dex, .dey].all (·.mode = .implicit) := by decide
theorem witness_ShiftsAndRotates : formsMet formsAsl ∧ formsMet formsLsr ∧ formsMet formsRol ∧
    formsMet formsRor := by decide
theorem witness_JumpsCallsReturns : formsMet formsJmp ∧ (Instr.jsr 0xFFFF).mode = .absolute ∧
    Instr.rts.mode = .implicit := by decide
theorem witness_Branches : [Instr.bcc 0x80, .bcs 0x7F, .beq 0, .bne 0xFF, .bmi 1, .bpl 0x80, .bvc 0x7F,
    .bvs 0].all (·.mode = .relative) := by decide
theorem witness_CarryOverflowFlags : [Instr.clc, .sec, .clv].all (·.mode = .implicit) := by decide
theorem witness_InterruptDecimalFlags : [Instr.cli, .sei, .cld, .sed].all (·.mode = .implicit) := by decide
theorem witness_BreakEntry : base.cart = some baseCart ∧ Instr.brk.mode = .implicit := by decide +kernel
theorem witness_ReturnFromInterruptRule : Instr.rti.mode = .implicit := by decide
theorem witness_NoOperation : Instr.nop.mode = .implicit := by decide
theorem witness_IllegalOpcodeHalts : illegalOpcodes.contains 0x02 = true ∧
    illegalOpcodes.contains 0xFF = true := by decide
theorem witness_EveryInstructionCompletes : (Instr.lda (.immediate 0)).wf = true ∧
    (Instr.lda .accumulator).wf = false := by decide
/-- A page crossed, a branch taken and one not taken. -/
theorem witness_CycleCost : (Instr.lda (.absoluteX 0x10FF)).entry = some (tableEntry 0xBD) ∧
    nextHas (exec (.lda (.absoluteX 0x10FF)) { base with x := 1 }) (fun t => t.out.cycles = 5) ∧
    branchOf base.p (.bne 0) = some (0, true) ∧ branchOf base.p (.beq 0) = some (0, false) ∧
    nextHas (exec (.bne 0) base) (fun t => t.out.cycles = 3) := by decide +kernel
/-- For each flag an instruction that changes it. -/
theorem witness_FlagWriters : statusOk base.p = true ∧
    nextHas (exec (.lda (.immediate 0x80)) base) (fun t => flagN t.p ≠ flagN base.p) ∧
    nextHas (exec (.lda (.immediate 0)) base) (fun t => flagZ t.p ≠ flagZ base.p) ∧
    nextHas (exec (.bit (.zeroPage 0)) { base with ram := [(0, 0x40)] }) (fun t => flagV t.p ≠ flagV base.p) ∧
    nextHas (exec .sed base) (fun t => flagD t.p ≠ flagD base.p) ∧
    nextHas (exec .cli base) (fun t => flagI t.p ≠ flagI base.p) ∧
    nextHas (exec .sec base) (fun t => flagC t.p ≠ flagC base.p) := by decide +kernel
/-- For each register an instruction that changes it. -/
theorem witness_RegisterWriters :
    nextHas (exec (.lda (.immediate 1)) base) (fun t => t.a ≠ base.a) ∧
    nextHas (exec (.lsr .accumulator) { base with a := 2 }) (fun t => t.a ≠ 2) ∧
    nextHas (exec .inx base) (fun t => t.x ≠ base.x) ∧
    nextHas (exec .dey base) (fun t => t.y ≠ base.y) ∧
    nextHas (exec .pha base) (fun t => t.sp ≠ base.sp) ∧
    nextHas (exec (.jmp (.absolute 0x9000)) base) (fun t => t.pc ≠ base.pc) := by decide +kernel
theorem witness_OtherStateWriters :
    nextHas (exec (.inc (.zeroPage 0)) base) (fun t => t.ram ≠ base.ram) ∧
    nextHas (exec (.ill 0x02) base) (fun t => t.halted ≠ base.halted && t.faultOpcode ≠ base.faultOpcode) := by
  decide +kernel
/-- Each of the three kinds that push, at a wrapping stack pointer, and a masked request. -/
theorem witness_InterruptEntry :
    let s := { base with p := 0x20, sp := 0x01 }
    let cases := [(InterruptKind.nonMaskable, 0xFFFA, s.p), (.maskable, 0xFFFE, s.p),
      (.softwareBreak, 0xFFFE, s.p ||| 0x30)]
    s.cart = some baseCart ∧ flagI s.p = false ∧ flagI base.p = true ∧
    (InterruptKind.nonMaskable, 0xFFFA, s.p) ∈ cases ∧ (InterruptKind.maskable, 0xFFFE, s.p) ∈ cases ∧
    (InterruptKind.softwareBreak, 0xFFFE, s.p ||| 0x30) ∈ cases := by decide +kernel
theorem witness_ReturnUndoesEntry :
    let s := { base with p := 0x20 }
    s.cart = some baseCart ∧ statusOk s.p = true ∧ flagI s.p = false ∧
    InterruptKind.nonMaskable ≠ .reset ∧ InterruptKind.maskable ≠ .reset ∧
    InterruptKind.softwareBreak ≠ .reset := by decide +kernel
/-- One running machine in each of the three cases, the request coming from the script. -/
theorem witness_StepPriority :
    let nmi := { base with inputs := [⟨[.nmiRequest], true⟩] }
    let irq := { base with p := 0x20, inputs := [⟨[], true⟩] }
    let masked := { base with inputs := [⟨[], true⟩] }
    ((atBoundary nmi).running = true ∧ (atBoundary nmi).nmiPending = true) ∧
    ((atBoundary irq).running = true ∧ (atBoundary irq).nmiPending = false ∧
      (nextBoundary irq).1.irqRequest = true ∧ flagI (atBoundary irq).p = false) ∧
    ((atBoundary masked).running = true ∧ (atBoundary masked).nmiPending = false ∧
      flagI (atBoundary masked).p = true) ∧
    ((atBoundary base).running = true ∧ (nextBoundary base).1.irqRequest = false) := by decide +kernel
theorem witness_StepRunsDecoded : base.running = true ∧ base.quiet = true ∧
    decode (fetchBytes (nextBoundary base).2).1 = .ok (.nop, []) ∧ Instr.nop.wf = true :=
  ⟨by decide +kernel, by decide +kernel, rfl, by decide⟩
theorem witness_ResetEffect : warm.cart.isSome = true ∧ warm.halted = false := by decide +kernel
/-- The two program sizes and two graphics sizes. -/
theorem witness_PowerOn : (List.replicate 16384 (0 : Byte)).length = 16384 ∧
    (List.replicate 32768 (0 : Byte)).length = 32768 ∧
    (0 < (List.replicate 8192 (0 : Byte)).length ∧ (List.replicate 8192 (0 : Byte)).length % 8192 = 0) ∧
    (0 < (List.replicate 16384 (0 : Byte)).length ∧ (List.replicate 16384 (0 : Byte)).length % 8192 = 0) := by
  simp only [List.length_replicate]; decide
theorem witness_CartridgeInstalledOnce : base.cart = some baseCart ∧
    nextHas (step base) (fun _ => true) = true ∧ (List.replicate 16384 (0 : Byte)).length = 16384 ∧
    (List.replicate 8192 (0 : Byte)).length = 8192 ∧ ¬ (0 < ([] : List Byte).length) := by
  refine ⟨by decide +kernel, by decide +kernel, List.length_replicate, List.length_replicate, by decide⟩
theorem witness_StepKeepsInvariant : base.inv = true ∧ nextHas (step base) (fun _ => true) = true := by
  decide +kernel
/-- The last position of the frame and the first. -/
theorem witness_PositionAfterTicks : positionOk (atDot 261 340 0 false).vtu = true ∧
    base.vtu.scanline = 0 ∧ base.vtu.dot = 0 := by decide +kernel
/-- A tick to each of the two positions, a tick elsewhere, and `sprite0` already set. -/
theorem witness_VblankEvents :
    let pos := fun s : State => ((tick s).vtu.scanline, (tick s).vtu.dot)
    pos (atDot 241 0 0x80 false) = (241, 1) ∧ pos (atDot 261 0 0 true) = (261, 1) ∧
    pos base ≠ (241, 1) ∧ pos base ≠ (261, 1) ∧
    pos (base.setVtu { base.vtu with sprite0 := true }) ≠ (261, 1) ∧
    (base.setVtu { base.vtu with sprite0 := true }).vtu.sprite0 = true := by decide +kernel
/-- Inside and outside vertical blanking, at its first and last dot. -/
theorem witness_VblankWindow :
    (positionOk (atDot 241 1 0 true).vtu = true ∧
      (atDot 241 1 0 true).vtu.vblank = inVblank (atDot 241 1 0 true).vtu) ∧
    (positionOk (atDot 261 0 0 true).vtu = true ∧
      (atDot 261 0 0 true).vtu.vblank = inVblank (atDot 261 0 0 true).vtu) ∧
    (positionOk (atDot 241 0 0 false).vtu = true ∧
      (atDot 241 0 0 false).vtu.vblank = inVblank (atDot 241 0 0 false).vtu) := by decide +kernel
theorem witness_FrameEnd : base.cart = some baseCart ∧ (atDot 261 339 0 false).cart = some baseCart ∧
    ((tick (atDot 261 339 0 false)).vtu.scanline, (tick (atDot 261 339 0 false)).vtu.dot) = (261, 340) ∧
    ((tick base).vtu.scanline, (tick base).vtu.dot) ≠ (261, 340) := by decide +kernel
/-- Each register stored to at an end of the window or in it. -/
theorem witness_DeviceStores : (0x2003 : Word).toNat % 8 = 3 ∧ (0x3FF9 : Word).toNat % 8 = 1 ∧
    (0x3FFF : Word).toNat % 8 = 7 ∧ 0x2000 ≤ (0x2003 : Word).toNat ∧ (0x3FFF : Word).toNat ≤ 0x3FFF := by
  decide
theorem witness_LatchedDeviceStores : (0x2000 : Word).toNat % 8 = 0 ∧ (0x3FFA : Word).toNat % 8 = 2 ∧
    (0x3FFC : Word).toNat % 8 = 4 ∧ (0x3FFD : Word).toNat % 8 = 5 ∧ (0x3FFE : Word).toNat % 8 = 6 ∧
    0x2000 ≤ (0x2000 : Word).toNat ∧ (0x3FFE : Word).toNat ≤ 0x3FFF ∧ base.vtu.writeLatch = false ∧
    warm.vtu.writeLatch = true := by decide +kernel
theorem witness_DeviceReads : (0x2002 : Word).toNat % 8 = 2 ∧ (0x3FFC : Word).toNat % 8 = 4 ∧
    (0x3FFF : Word).toNat % 8 = 7 ∧ base.cart.isSome = true ∧
    [0x2000, 0x2001, 0x2003, 0x2005, 0x3FFE].all
      (fun a : Word => decide (a.toNat % 8 ∈ [0, 1, 3, 5, 6] ∧ 0x2000 ≤ a.toNat ∧ a.toNat ≤ 0x3FFF)) := by
  decide +kernel
theorem witness_VideoMemory : base.cart = some baseCart ∧ (0x5FFF : Word).toNat % 0x4000 = 0x1FFF ∧
    (0x2000 : Word).toNat % 0x4000 = 0x2000 ∧ (0xFFFF : Word).toNat % 0x4000 = 0x3FFF := by decide +kernel
/-- A machine that accepts a host action, one with no cartridge, one before its first Reset. -/
theorem witness_HostActionEffects : base.halted = false ∧
    ((atBoundary State.construct).halted = false ∧ (atBoundary State.construct).cart = none) ∧
    ((atBoundary { base with resetDone := false }).halted = false ∧
      (atBoundary { base with resetDone := false }).cart.isSome = true ∧
      (atBoundary { base with resetDone := false }).resetDone = false) := by decide +kernel
/-- After an instruction the snapshot shows its mnemonic; after a Reset no opcode (log entry 18). -/
theorem test_snapshot : nextHas (step base) (fun t => (snapshot t).lastOpcode = some (.NOP, .implicit)) = true ∧
    (snapshot (hostAct .reset base)).lastOpcode = none := by decide +kernel

end Sys2Proof.Tests
end

section
/-! PROOFS. `Push` and `Pop` at `0x0100 + SP` (10_state.md R14 to R16). -/

namespace Sys2Proof.Machine

/-- The index of `RAM` in the laws of the stack is the one in the statements. -/
theorem stackIndex_eq_stackAt (sp : Byte) : stackIndex sp = stackAt sp := rfl

theorem push_sp (b : Byte) (s : State) : (push b s).sp = s.sp - 1 := by simp [push_eq]

theorem push_ram (b : Byte) (s : State) :
    (push b s).ram = Memory.write s.ram (stackAt s.sp) b := by
  simp [push_eq, stackIndex_eq_stackAt]

theorem pop_fst (s : State) : (pop s).1 = stackByte s (s.sp + 1) := by
  rw [pop_eq, stackByte, stackIndex_eq_stackAt]

theorem pop_snd (s : State) : (pop s).2 = s.setSp (s.sp + 1) := by rw [pop_eq]

theorem pop_sp (s : State) : (pop s).2.sp = s.sp + 1 := by rw [pop_snd, setSp_sp]

/-- A push stores one byte of `RAM`, at the old `SP`, and no other. -/
theorem push_pushesOnly (b : Byte) (s : State) : PushesOnly s (push b s) [(stackAt s.sp, b)] := by
  refine ⟨by simp [SameMachine, push_eq], by simp [SameUnit, push_eq], fun c hc => ?_, fun i hi => ?_⟩
  · obtain rfl := List.mem_singleton.mp hc
    rw [push_ram, Memory.read_write_same]
  · rw [push_ram, Memory.read_write_other _ _ (hi _ (List.mem_singleton.mpr rfl))]

/-- The stack byte a push stored is the one read at the old `SP`. -/
theorem stackByte_push_same (b : Byte) (s : State) : stackByte (push b s) s.sp = b := by
  rw [stackByte, push_ram, Memory.read_write_same]

/-- Settles O17: a push and a pop move `SP` by one in opposite directions, modulo 256, so that the pop
reads the byte just stored. -/
theorem pushThenPop : Obligations.PushThenPop := by
  unfold Obligations.PushThenPop
  intro b s
  have spBack : (push b s).sp + 1 = s.sp := by rw [push_sp, BitVec.sub_add_cancel]
  refine ⟨?_, push_pushesOnly b s, ?_, ?_, ?_, ?_, ?_⟩
  · rw [push_sp]; bv_omega
  · rw [pop_sp]; bv_omega
  · rw [pop_fst, pop_sp]
  · rw [pop_sp, pop_snd, State.setSp]
  · rw [pop_fst, spBack, stackByte_push_same]
  · rw [pop_sp, spBack]

end Sys2Proof.Machine
end

section
/-! PROOFS. Writes to the program window (20_memory.md R56). -/

namespace Sys2Proof.Machine

/-- Program memory is read-only: a write routed to it is dropped. -/
theorem memWrite_program {a : Word} {o : Nat} (h : route a = .program o) (v : Byte) (s : State) :
    memWrite a v s = s := by simp [memWrite, h]

/-- Settles O9: every address from `0x8000` is routed to program memory, which drops the write. -/
theorem programWritesIgnored : Obligations.ProgramWritesIgnored := by
  unfold Obligations.ProgramWritesIgnored
  intro a v s inWindow
  exact memWrite_program (route_program inWindow) v s

end Sys2Proof.Machine
end

section
/-! PROOFS. The table's modes, what the decoder and a fetch take from the opcode byte, and
`disassemble` (30_encoding.md R92, R110, R111, R114). -/

namespace Sys2Proof

/-- Every row's mode is one that the listing by mnemonic gives (30_encoding.md R110). -/
theorem tableEntry_form (op : Byte) : (tableEntry op).mode ∈ formsOf (tableEntry op).mnemonic := by
  revert op; decide +kernel

theorem tableEntry_mode_of_ILL {op : Byte} (h : (tableEntry op).mnemonic = .ILL) :
    (tableEntry op).mode = .implicit := by
  have form := tableEntry_form op
  rw [h] at form
  exact List.mem_singleton.mp form

theorem tableEntry_mnemonic_of_illegal {op : Byte} (h : illegalOpcodes.contains op = true) :
    (tableEntry op).mnemonic = .ILL :=
  eq_of_beq (List.all_eq_true.mp Laws.HasRow.illegal_rows op (List.contains_iff_mem.mp h))

/-! ## The instruction of a row -/

theorem operandOf_mode {m : Mode} (h : m ≠ .implicit ∧ m ≠ .relative) (lo hi : Byte) :
    (operandOf m lo hi).mode = m := by
  obtain ⟨notImplicit, notRelative⟩ := h
  cases m
  case implicit => exact absurd rfl notImplicit
  case relative => exact absurd rfl notRelative
  all_goals rfl

theorem instrOf_mnemonic (e : TableEntry) (lo hi : Byte) :
    (instrOf e lo hi).mnemonic = e.mnemonic := by
  obtain ⟨op, mn, mode, cycles, page, branch⟩ := e
  cases mn <;> rfl

/-- A mnemonic that carries an operand has its mode from it; every other mnemonic has one form. -/
theorem instrOf_mode {e : TableEntry} (form : e.mode ∈ formsOf e.mnemonic) (lo hi : Byte) :
    (instrOf e lo hi).mode = e.mode := by
  obtain ⟨op, mn, mode, cycles, page, branch⟩ := e
  dsimp only at form
  cases mn
  case LDA | LDX | LDY | STA | STX | STY | AND | ORA | EOR | BIT | ADC | SBC | CMP | CPX | CPY | INC
      | DEC | ASL | LSR | ROL | ROR | JMP =>
    exact operandOf_mode ((by decide : ∀ m ∈ formsOf _, m ≠ .implicit ∧ m ≠ .relative) mode form) lo hi
  all_goals exact (List.mem_singleton.mp form).symm

/-- `disassemble` names the instruction of the row, whatever its operand bytes. -/
theorem disassemble_eq_instrOf (op lo hi : Byte) :
    disassemble op =
      ((instrOf (tableEntry op) lo hi).mnemonic, (instrOf (tableEntry op) lo hi).mode) := by
  rw [instrOf_mnemonic, instrOf_mode (tableEntry_form op), disassemble]

/-! ## The decoder -/

section Format
variable {op : Byte}

theorem decode_op (h : (tableEntry op).mode.format = .op) (rest : List Byte) :
    decode (op :: rest) = .ok (instrOf (tableEntry op) 0 0, rest) := by simp only [decode, h]

theorem decode_opB (h : (tableEntry op).mode.format = .opB) (lo : Byte) (rest : List Byte) :
    decode (op :: lo :: rest) = .ok (instrOf (tableEntry op) lo 0, rest) := by simp only [decode, h]

theorem decode_opW (h : (tableEntry op).mode.format = .opW) (lo hi : Byte) (rest : List Byte) :
    decode (op :: lo :: hi :: rest) = .ok (instrOf (tableEntry op) lo hi, rest) := by
  simp only [decode, h]

end Format

/-- What the decoder reads is the instruction of the opcode byte's row. -/
theorem decode_cons {op : Byte} {bs rest : List Byte} {i : Instr}
    (h : decode (op :: bs) = .ok (i, rest)) : ∃ lo hi, i = instrOf (tableEntry op) lo hi := by
  simp only [decode] at h
  split at h
  · cases h; exact ⟨0, 0, rfl⟩
  · cases h; exact ⟨_, 0, rfl⟩
  · cases h
  · cases h; exact ⟨_, _, rfl⟩
  · cases h
  · cases h

/-- Three bytes are enough for every opcode, and the decoder consumes the length of its mode. -/
theorem decode_consumes (op lo hi : Byte) (rest : List Byte) :
    ∃ i, decode (op :: lo :: hi :: rest) =
      .ok (i, (op :: lo :: hi :: rest).drop (tableEntry op).mode.length) := by
  unfold Mode.length
  cases format : (tableEntry op).mode.format with
  | op => exact ⟨_, decode_op format _⟩
  | opB => exact ⟨_, decode_opB format _ _⟩
  | opW => exact ⟨_, decode_opW format _ _ _⟩

/-- R92, by listing the modes of one byte and of two. -/
theorem Mode.length_eq (m : Mode) : m.length =
    if m ∈ [Mode.implicit, .accumulator] then 1
    else if m ∈ [Mode.immediate, .zeroPage, .zeroPageX, .zeroPageY, .indirectX, .indirectY, .relative]
    then 2 else 3 := by
  cases m <;> rfl

theorem Mode.mem_of_length_three {m : Mode} :
    m.length = 3 → m ∈ [Mode.absolute, .absoluteX, .absoluteY, .indirect] := by
  cases m <;> decide

end Sys2Proof

namespace Sys2Proof.Machine

/-! ## The fetch -/

theorem fetchBytes_length (s : State) :
    (fetchBytes s).1.length = (tableEntry (fetch8 s).1).mode.length := by
  rw [fetchBytes, Mode.length]
  cases (tableEntry (fetch8 s).1).mode.format with
  | op => rfl
  | opB => rfl
  | opW => rfl

/-- The first byte of a fetch is the opcode byte. -/
theorem fetchBytes_head (s : State) : (fetchBytes s).1.getD 0 0 = (fetch8 s).1 := by
  rw [fetchBytes]
  cases (tableEntry (fetch8 s).1).mode.format with
  | op => rfl
  | opB => rfl
  | opW => rfl

/-- Settles O4: the decoder and the fetch both take the length of the opcode's mode, which is the one
R92 lists. -/
theorem lengthFromOpcode : Obligations.LengthFromOpcode := by
  unfold Obligations.LengthFromOpcode
  intro op lo hi rest m n
  have len : m.length = n := m.length_eq
  rw [← len]
  refine ⟨Mode.mem_of_length_three, fun ill => ?_, decode_consumes op lo hi rest, fun s opcode => ?_⟩
  · have implicit : m = .implicit := tableEntry_mode_of_ILL ill
    rw [implicit]; rfl
  · rw [fetchBytes_length, opcode]

/-- Settles O6: the decoder and the step both run the instruction of the opcode's row, whose mnemonic
and mode are the row's. -/
theorem disassembleAgrees : Obligations.DisassembleAgrees := by
  unfold Obligations.DisassembleAgrees
  intro op
  refine ⟨rfl, fun bs rest i decoded => ?_, fun s opcode => ?_, fun illegal => ?_⟩
  · obtain ⟨lo, hi, rfl⟩ := decode_cons decoded
    exact disassemble_eq_instrOf op lo hi
  · rw [instrOfBytes, fetchBytes_head, opcode]
    exact disassemble_eq_instrOf op _ _
  · have ill := tableEntry_mnemonic_of_illegal illegal
    rw [disassemble, ill, tableEntry_mode_of_ILL ill]

end Sys2Proof.Machine
end

section
/-! PROOFS. Running an instruction in each form a statement lists: its row of the table, its length,
its cost (30_encoding.md R90, R92, R107), for any instruction. -/

namespace Sys2Proof

/-- The instruction's bytes are as many as its mode says (30_encoding.md R92). -/
theorem operandBytes_length (i : Instr) : i.operandBytes.length + 1 = i.mode.length := by
  cases i
  case lda o | ldx o | ldy o | sta o | stx o | sty o | and o | ora o | eor o | bit o | adc o | sbc o
      | cmp o | cpx o | cpy o | inc o | dec o | asl o | lsr o | rol o | ror o | jmp o =>
    cases o <;> rfl
  all_goals rfl

theorem entry_eq_rowOf {i : Instr} (h : i.mnemonic ≠ .ILL) : i.entry = rowOf i.mnemonic i.mode := by
  cases i
  case ill op => exact absurd rfl h
  all_goals rfl

theorem encode_eq_cons {i : Instr} {e : TableEntry} (h : i.entry = some e) :
    encode i = e.opcode :: i.operandBytes := by simp only [encode, h]

theorem encode_length {i : Instr} {e : TableEntry} (h : i.entry = some e) :
    (encode i).length = i.mode.length := by
  rw [encode_eq_cons h, List.length_cons, operandBytes_length]

end Sys2Proof

namespace Sys2Proof.Machine

/-- A form a statement lists for a mnemonic says what the table says at its opcode. -/
def Form.isRowOf (mn : Mnemonic) (f : Form) : Bool :=
  decide (mn ≠ .ILL) && decide (f.length = f.mode.length) &&
    decide (tableEntry f.opcode =
      ⟨f.opcode, mn, f.mode, f.cycles, f.plus, (tableEntry f.opcode).branchPenalty⟩)

theorem Form.isRowOf_iff {mn : Mnemonic} {f : Form} : f.isRowOf mn = true ↔
    mn ≠ .ILL ∧ f.length = f.mode.length ∧ tableEntry f.opcode =
      ⟨f.opcode, mn, f.mode, f.cycles, f.plus, (tableEntry f.opcode).branchPenalty⟩ := by
  simp only [Form.isRowOf, Bool.and_eq_true, decide_eq_true_eq, and_assoc]

theorem Form.entry_of_isRowOf {i : Instr} {f : Form} (row : f.isRowOf i.mnemonic = true)
    (mode : f.mode = i.mode) : i.entry = some (tableEntry f.opcode) := by
  obtain ⟨notIll, -, entry⟩ := Form.isRowOf_iff.mp row
  have mnemonic : (tableEntry f.opcode).mnemonic = i.mnemonic := by rw [entry]
  have found := rowOf_tableEntry f.opcode (by rwa [mnemonic])
  rw [entry_eq_rowOf notIll, ← found, mnemonic, ← mode, entry]

/-- The cost of a listed form: its cycles, one more for a crossed page under `+`, and the branch's. -/
theorem Form.cycles_of_isRowOf {mn : Mnemonic} {f : Form} (row : f.isRowOf mn = true)
    (crossed : Bool) (extra : Nat) : instrCycles (tableEntry f.opcode) crossed extra =
      f.cycles + (if f.plus && crossed then 1 else 0) + extra := by
  obtain ⟨-, -, entry⟩ := Form.isRowOf_iff.mp row
  rw [entry]; rfl

section Runs
variable {i : Instr} {forms : List Form} {more : Form → Nat} {o : Operand} {s : State}
  {post : State → Prop}

/-- An instruction that runs as the effect `body` completes in each listed form, where the listed forms
are the table's and `more` is what `body` adds to the base cycles. -/
theorem runs_of_runForm {body : State → Effect} (run : exec i s = runForm i body s)
    (rows : forms.all (Form.isRowOf i.mnemonic) = true)
    (cost : ∀ f ∈ forms, (if f.plus && (body s).crossed then 1 else 0) + (body s).extra = more f)
    (holds : ∀ f ∈ forms, f.mode = i.mode → ∀ out, post ((body s).state.setOut out)) :
    Runs i forms more s post := by
  intro f listed mode
  have row := List.all_eq_true.mp rows f listed
  obtain ⟨-, length, -⟩ := Form.isRowOf_iff.mp row
  have entry := Form.entry_of_isRowOf row mode
  refine ⟨?_, ?_, _, run.trans (runForm_eq entry body s), ?_, holds f listed mode _⟩
  · rw [encode_eq_cons entry, tableEntry_opcode]
  · rw [encode_length entry, length, mode]
  · rw [setOut_out, Form.cycles_of_isRowOf row, tableEntry_opcode, Nat.add_assoc, cost f listed]

/-- An instruction that reads its operand byte completes in each listed form, with the effect `f` on
the state the operand's reads leave. -/
theorem runs_of_runRead {f : Byte → State → State} (run : exec i s = runRead i o f s)
    (rows : forms.all (Form.isRowOf i.mnemonic) = true)
    (holds : ∀ out, post ((f (operandByte o s) (afterOperand o s)).setOut out)) :
    Runs i forms (crossCost o s) s post :=
  runs_of_runForm run rows (fun _ _ => rfl) (fun _ _ _ => holds)

end Runs

end Sys2Proof.Machine
end

section
/-! PROOFS. The state after the reads of an operand, the registers-only and flag terms of the
statements, and LDA, LDX, LDY (40_load_store.md R130 to R132). -/

namespace Sys2Proof.Machine

section AfterOperand
variable (o : Operand) (s : State)

/-- The pointer reads and the operand's read are bus reads and nothing else. -/
theorem afterOperand_onlyReads : OnlyReads s (afterOperand o s) :=
  (resolve_onlyReads o s).trans (readPlace_onlyReads _ _)

@[simp] theorem afterOperand_a : (afterOperand o s).a = s.a := (afterOperand_onlyReads o s).a
@[simp] theorem afterOperand_x : (afterOperand o s).x = s.x := (afterOperand_onlyReads o s).x
@[simp] theorem afterOperand_y : (afterOperand o s).y = s.y := (afterOperand_onlyReads o s).y
@[simp] theorem afterOperand_sp : (afterOperand o s).sp = s.sp := (afterOperand_onlyReads o s).sp
@[simp] theorem afterOperand_pc : (afterOperand o s).pc = s.pc := (afterOperand_onlyReads o s).pc
@[simp] theorem afterOperand_p : (afterOperand o s).p = s.p := (afterOperand_onlyReads o s).p

end AfterOperand

theorem OnlyReads.sameMachine {s t : State} (h : OnlyReads s t) : SameMachine s t :=
  ⟨h.nmiPending, h.halted, h.faultOpcode, h.cart, h.resetDone, h.inputs⟩

theorem OnlyReads.sameRam {s t : State} (h : OnlyReads s t) : SameRam s t := fun i => by rw [h.ram]

theorem SameMachine.trans {s t u : State} (h : SameMachine s t) (h' : SameMachine t u) :
    SameMachine s u := by
  obtain ⟨nmi, halted, fault, cart, resetDone, inputs⟩ := h
  obtain ⟨nmi', halted', fault', cart', resetDone', inputs'⟩ := h'
  exact ⟨nmi'.trans nmi, halted'.trans halted, fault'.trans fault, cart'.trans cart,
    resetDone'.trans resetDone, inputs'.trans inputs⟩

section RegistersOnly
variable {s t : State}

@[simp] theorem registersOnly_self (s : State) : RegistersOnly s s :=
  ⟨⟨rfl, rfl, rfl, rfl, rfl, rfl⟩, fun _ => rfl, rfl, rfl⟩

@[simp] theorem registersOnly_setA (v : Byte) : RegistersOnly s (t.setA v) ↔ RegistersOnly s t := .rfl
@[simp] theorem registersOnly_setX (v : Byte) : RegistersOnly s (t.setX v) ↔ RegistersOnly s t := .rfl
@[simp] theorem registersOnly_setY (v : Byte) : RegistersOnly s (t.setY v) ↔ RegistersOnly s t := .rfl
@[simp] theorem registersOnly_setZN (v : Byte) : RegistersOnly s (t.setZN v) ↔ RegistersOnly s t := .rfl
@[simp] theorem registersOnly_setOut (v : StepOutput) :
    RegistersOnly s (t.setOut v) ↔ RegistersOnly s t := .rfl

/-- An effect on registers and status alone, after the operand's reads, changes nothing beyond them. -/
theorem ReadsOperand.of_registersOnly {o : Operand} (h : RegistersOnly (afterOperand o s) t) :
    ReadsOperand o s t := by
  obtain ⟨machine, ram, unit⟩ := h
  have reads := afterOperand_onlyReads o s
  exact ⟨reads.sameMachine.trans machine, fun i => (ram i).trans (reads.sameRam i), unit⟩

end RegistersOnly

/-- `SetZN` is what the statements say of it, flag by flag. -/
theorem setsZN_statusZN (p v : Byte) : SetsZN p (statusZN p v) v := by
  simp [SetsZN, StatusIs, beq_eq_decide]

/-! ## The loads -/

section Dispatch
variable (o : Operand) (s : State)

theorem exec_lda : exec (.lda o) s = runRead (.lda o) o (fun m t => (t.setA m).setZN m) s := rfl
theorem exec_ldx : exec (.ldx o) s = runRead (.ldx o) o (fun m t => (t.setX m).setZN m) s := rfl
theorem exec_ldy : exec (.ldy o) s = runRead (.ldy o) o (fun m t => (t.setY m).setZN m) s := rfl

end Dispatch

theorem formsLda_rows : formsLda.all (Form.isRowOf .LDA) = true := by decide +kernel
theorem formsLdx_rows : formsLdx.all (Form.isRowOf .LDX) = true := by decide +kernel
theorem formsLdy_rows : formsLdy.all (Form.isRowOf .LDY) = true := by decide +kernel

/-- Settles O14: each load is a read of its operand, followed by the write of the register and of `Z`
and `N`. -/
theorem loads : Obligations.Loads := by
  unfold Obligations.Loads
  intro o s
  refine ⟨runs_of_runRead (exec_lda o s) formsLda_rows fun out => ⟨?_, ?_, .of_registersOnly ?_⟩,
    runs_of_runRead (exec_ldx o s) formsLdx_rows fun out => ⟨?_, ?_, .of_registersOnly ?_⟩,
    runs_of_runRead (exec_ldy o s) formsLdy_rows fun out => ⟨?_, ?_, .of_registersOnly ?_⟩⟩
  all_goals simp [Regs, setsZN_statusZN]

end Sys2Proof.Machine
end

section
/-! PROOFS. The bus write of a store, and STA, STX, STY (40_load_store.md R133 to R135). -/

namespace Sys2Proof.Machine

/-- Nothing is behind the unmapped window: a write routed there is dropped (20_memory.md R54). -/
theorem memWrite_unmapped {a : Word} (h : route a = .unmapped) (v : Byte) (s : State) :
    memWrite a v s = s := by simp [memWrite, h]

/-- A bus write is the store the statements describe, whatever the instruction then outputs. -/
theorem storesAt_memWrite (ea : Word) (v : Byte) (u : State) (out : StepOutput) :
    StoresAt ea v u ((memWrite ea v u).setOut out) := by
  refine ⟨by simp [SameMachine], by simp, ?_⟩
  cases backing : route ea with
  | ram k =>
    rw [memWrite_ram backing]
    exact ⟨rfl, fun i => Memory.read_write u.ram k i v⟩
  | device r =>
    rw [memWrite_device backing]
    exact ⟨rfl, fun _ => rfl⟩
  | unmapped =>
    rw [memWrite_unmapped backing]
    exact ⟨rfl, fun _ => rfl⟩
  | program k =>
    rw [memWrite_program backing]
    exact ⟨rfl, fun _ => rfl⟩

/-- A form that has a bus address in every state and one cost. -/
def Form.storesOnBus (f : Form) : Bool :=
  decide (f.mode ≠ .accumulator) && decide (f.mode ≠ .immediate) && !f.plus

section RunStore
variable {i : Instr} {forms : List Form} {o : Operand} {s : State} {value : State → Byte}

/-- An instruction that stores a register, which the pointer reads leave as it was, completes in each
listed form with one bus write at the address of its operand. -/
theorem runs_of_runStore (run : exec i s = runStore i o value s) (modes : i.mode = o.mode)
    (rows : forms.all (Form.isRowOf i.mnemonic) = true) (onBus : forms.all Form.storesOnBus = true)
    (kept : value (resolve o s).state = value s) :
    Runs i forms flatCost s (fun t =>
      Regs t s.a s.x s.y s.sp s.pc ∧ t.p = s.p ∧ StoresOperand o (value s) s t) := by
  simp only [List.all_eq_true, Form.storesOnBus, Bool.and_eq_true, decide_eq_true_eq,
    Bool.not_eq_true'] at onBus
  refine runs_of_runForm run rows (fun f listed => ?_) (fun f listed mode out => ?_)
  · obtain ⟨-, noPlus⟩ := onBus f listed
    rw [noPlus]; rfl
  · obtain ⟨⟨notAccumulator, notImmediate⟩, -⟩ := onBus f listed
    rw [mode, modes] at notAccumulator notImmediate
    obtain ⟨ea, place⟩ := resolve_bus notAccumulator notImmediate s
    refine ⟨by simp [Regs, place], by simp, ?_⟩
    simp only [StoresOperand, place, writePlace_bus, kept]
    exact storesAt_memWrite ea (value s) _ out

end RunStore

/-! ## The stores -/

section Dispatch
variable (o : Operand) (s : State)

theorem exec_sta : exec (.sta o) s = runStore (.sta o) o (fun t => t.a) s := rfl
theorem exec_stx : exec (.stx o) s = runStore (.stx o) o (fun t => t.x) s := rfl
theorem exec_sty : exec (.sty o) s = runStore (.sty o) o (fun t => t.y) s := rfl

end Dispatch

theorem formsSta_rows : formsSta.all (Form.isRowOf .STA) = true := by decide +kernel
theorem formsStx_rows : formsStx.all (Form.isRowOf .STX) = true := by decide +kernel
theorem formsSty_rows : formsSty.all (Form.isRowOf .STY) = true := by decide +kernel

/-- Settles O15: each store is one bus write of its register at the address its operand resolves to. -/
theorem stores : Obligations.Stores := by
  unfold Obligations.Stores
  intro o s
  exact ⟨runs_of_runStore (exec_sta o s) rfl formsSta_rows (by decide) (resolve_a o s),
    runs_of_runStore (exec_stx o s) rfl formsStx_rows (by decide) (resolve_x o s),
    runs_of_runStore (exec_sty o s) rfl formsSty_rows (by decide) (resolve_y o s)⟩

end Sys2Proof.Machine
end

section
/-! PROOFS. Running an instruction with no operand, in each listed form, for any such instruction. -/

namespace Sys2Proof.Machine

/-- An instruction with no operand completes in each listed form at that form's own cycles, since no
page is crossed, with the effect `g` and the output of the step. -/
theorem runs_of_runImplicit {i : Instr} {forms : List Form} {g : State → State} {s : State}
    {post : State → Prop} (run : exec i s = runImplicit i g s)
    (rows : forms.all (Form.isRowOf i.mnemonic) = true)
    (holds : ∀ out, post ((g s).setOut out)) : Runs i forms flatCost s post :=
  runs_of_runForm run rows (fun _ _ => by simp [flatCost]) (fun _ _ _ => holds)

end Sys2Proof.Machine
end

section
/-! PROOFS. The register transfers (41_transfer_stack.md R140 to R145). -/

namespace Sys2Proof.Machine

@[simp] theorem registersOnly_setSp {s t : State} (v : Byte) :
    RegistersOnly s (t.setSp v) ↔ RegistersOnly s t := .rfl

section Dispatch
variable (s : State)

theorem exec_tax : exec .tax s = runImplicit .tax (fun t => (t.setX t.a).setZN t.a) s := rfl
theorem exec_tay : exec .tay s = runImplicit .tay (fun t => (t.setY t.a).setZN t.a) s := rfl
theorem exec_txa : exec .txa s = runImplicit .txa (fun t => (t.setA t.x).setZN t.x) s := rfl
theorem exec_tya : exec .tya s = runImplicit .tya (fun t => (t.setA t.y).setZN t.y) s := rfl
theorem exec_tsx : exec .tsx s = runImplicit .tsx (fun t => (t.setX t.sp).setZN t.sp) s := rfl
theorem exec_txs : exec .txs s = runImplicit .txs (fun t => t.setSp t.x) s := rfl

end Dispatch

/-- Settles O16: each transfer writes one register and, but for TXS, `Z` and `N` from the same byte. -/
theorem transfers : Obligations.Transfers := by
  unfold Obligations.Transfers
  intro s
  refine ⟨runs_of_runImplicit (exec_tax s) (by decide +kernel) fun out => ⟨?_, ?_, ?_⟩,
    runs_of_runImplicit (exec_tay s) (by decide +kernel) fun out => ⟨?_, ?_, ?_⟩,
    runs_of_runImplicit (exec_txa s) (by decide +kernel) fun out => ⟨?_, ?_, ?_⟩,
    runs_of_runImplicit (exec_tya s) (by decide +kernel) fun out => ⟨?_, ?_, ?_⟩,
    runs_of_runImplicit (exec_tsx s) (by decide +kernel) fun out => ⟨?_, ?_, ?_⟩,
    runs_of_runImplicit (exec_txs s) (by decide +kernel) fun out => ⟨?_, ?_, ?_⟩⟩
  all_goals simp [Regs, setsZN_statusZN]

end Sys2Proof.Machine
end

section
/-! PROOFS. The accumulator on the stack (41_transfer_stack.md R146, R148). -/

namespace Sys2Proof.Machine

@[simp] theorem pushesOnly_setOut {s t : State} {bytes : List (Nat × Byte)} (out : StepOutput) :
    PushesOnly s (t.setOut out) bytes ↔ PushesOnly s t bytes := .rfl

section Dispatch
variable (s : State)

theorem exec_pha : exec .pha s = runImplicit .pha (fun t => push t.a t) s := rfl
theorem exec_pla : exec .pla s =
    runImplicit .pla (fun t => ((pop t).2.setA (pop t).1).setZN (pop t).1) s := rfl

end Dispatch

/-- Settles O18: PHA is a push of `A`, which is one stored stack byte; PLA is a pop, which moves `SP`
alone, followed by the write of `A` and of `Z` and `N`. -/
theorem accumulatorOnStack : Obligations.AccumulatorOnStack := by
  unfold Obligations.AccumulatorOnStack
  intro s
  refine ⟨runs_of_runImplicit (exec_pha s) (by decide +kernel) fun out => ⟨?_, ?_, ?_⟩,
    runs_of_runImplicit (exec_pla s) (by decide +kernel) fun out => ⟨?_, ?_, ?_⟩⟩
  · simp [Regs, push_eq]
  · simp [push_eq]
  · exact (pushesOnly_setOut out).mpr (push_pushesOnly s.a s)
  · simp [Regs, pop_fst, pop_snd]
  · simp [pop_fst, pop_snd, setsZN_statusZN]
  · simp [pop_snd]

end Sys2Proof.Machine
end

section
/-! PROOFS. AND, ORA, EOR (42_logic.md R155 to R157) as one operation on `A` and the operand byte, and
BIT (R158). -/

namespace Sys2Proof.Machine

/-- An instruction that combines `A` with its operand byte by `op` and takes `Z` and `N` from the result
completes in each listed form, with no other register, flag or byte changed beyond the operand's reads. -/
theorem runs_of_runRead_setA {i : Instr} {forms : List Form} {o : Operand} {s : State}
    (op : Byte → Byte → Byte)
    (run : exec i s = runRead i o (fun m t => (t.setA (op t.a m)).setZN (op t.a m)) s)
    (rows : forms.all (Form.isRowOf i.mnemonic) = true) :
    Runs i forms (crossCost o s) s (fun t =>
      Regs t (op s.a (operandByte o s)) s.x s.y s.sp s.pc ∧
        SetsZN s.p t.p (op s.a (operandByte o s)) ∧ ReadsOperand o s t) := by
  refine runs_of_runRead run rows fun out => ⟨?_, ?_, .of_registersOnly ?_⟩
  · simp [Regs]
  · simp [setsZN_statusZN]
  · simp

section Dispatch
variable (o : Operand) (s : State)

theorem exec_and : exec (.and o) s =
    runRead (.and o) o (fun m t => (t.setA (t.a &&& m)).setZN (t.a &&& m)) s := rfl
theorem exec_ora : exec (.ora o) s =
    runRead (.ora o) o (fun m t => (t.setA (t.a ||| m)).setZN (t.a ||| m)) s := rfl
theorem exec_eor : exec (.eor o) s =
    runRead (.eor o) o (fun m t => (t.setA (t.a ^^^ m)).setZN (t.a ^^^ m)) s := rfl
theorem exec_bit : exec (.bit o) s =
    runRead (.bit o) o (fun m t => t.setP (statusBit t.p t.a m)) s := rfl

end Dispatch

theorem formsAnd_rows : formsAnd.all (Form.isRowOf .AND) = true := by decide +kernel
theorem formsOra_rows : formsOra.all (Form.isRowOf .ORA) = true := by decide +kernel
theorem formsEor_rows : formsEor.all (Form.isRowOf .EOR) = true := by decide +kernel
theorem formsBit_rows : formsBit.all (Form.isRowOf .BIT) = true := by decide +kernel

/-- Settles O21: the three instructions are one operation on `A` and the operand byte, with the bitwise
and, or and exclusive or. -/
theorem logic : Obligations.Logic := by
  unfold Obligations.Logic
  intro o s
  exact ⟨runs_of_runRead_setA (· &&& ·) (exec_and o s) formsAnd_rows,
    runs_of_runRead_setA (· ||| ·) (exec_ora o s) formsOra_rows,
    runs_of_runRead_setA (· ^^^ ·) (exec_eor o s) formsEor_rows⟩

@[simp] theorem registersOnly_setP {s t : State} (v : Byte) :
    RegistersOnly s (t.setP v) ↔ RegistersOnly s t := .rfl

/-- The status BIT leaves, flag by flag: `N` and `V` from the operand `m`, `Z` from `a &&& m`. -/
theorem statusIs_statusBit (p a m : Byte) : StatusIs (statusBit p a m) (m.getLsbD 7) (m.getLsbD 6)
    (flagU p) (flagB p) (flagD p) (flagI p) (decide (a &&& m = 0)) (flagC p) := by
  simp [StatusIs, beq_eq_decide]

/-- Settles O22: BIT is a read of its operand, followed by the write of the status byte alone. -/
theorem bitTest : Obligations.BitTest := by
  unfold Obligations.BitTest
  intro o s
  refine runs_of_runRead (exec_bit o s) formsBit_rows fun out => ⟨?_, ?_, .of_registersOnly ?_⟩
  · simp [Regs]
  · simpa using statusIs_statusBit s.p s.a (operandByte o s)
  · simp

end Sys2Proof.Machine
end

section
/-! PROOFS. ADC (43_arithmetic.md R165) as the 9-bit sum of R170, and the overflow of that sum in
signed numbers. -/

namespace Sys2Proof.Machine

/-! ## The sum (43_arithmetic.md R170) -/

/-- Bit 7 of a byte is its sign: set for the upper half of the unsigned range. -/
theorem getLsbD_seven_eq_decide (b : Byte) : b.getLsbD 7 = decide (128 ≤ b.toNat) :=
  BitVec.msb_eq_decide b

/-- A byte in two's complement, by the half of the unsigned range it lies in. -/
theorem byte_toInt_eq (b : Byte) :
    b.toInt = if 128 ≤ b.toNat then (b.toNat : Int) - 256 else b.toNat := by
  rw [BitVec.toInt_eq_toNat_cond]
  split <;> split <;> omega

section Sum
variable (a m : Byte) (c : Bool)

theorem addWithCarry_r_toNat :
    (addWithCarry a m c).r.toNat = (a.toNat + m.toNat + c.toNat) % 256 := BitVec.toNat_ofNat _ 8

theorem addWithCarry_n : (addWithCarry a m c).n = (addWithCarry a m c).r.getLsbD 7 := rfl

theorem addWithCarry_z : (addWithCarry a m c).z = decide ((addWithCarry a m c).r = 0) :=
  beq_eq_decide ..

theorem addWithCarry_c : (addWithCarry a m c).c = decide (255 < a.toNat + m.toNat + c.toNat) := rfl

theorem addWithCarry_v : (addWithCarry a m c).v =
    (a.getLsbD 7 == m.getLsbD 7 && (addWithCarry a m c).r.getLsbD 7 != a.getLsbD 7) := rfl

/-- `V` by the signs is `V` by the signed sum: it is outside a byte's range exactly when operands of one
sign give a result of the other. -/
theorem addWithCarry_v_eq_decide_toInt : (addWithCarry a m c).v =
    decide (a.toInt + m.toInt + c.toNat < -128 ∨ 127 < a.toInt + m.toInt + c.toNat) := by
  have carry : c.toNat ≤ 1 := c.toNat_le
  rw [addWithCarry_v, Bool.eq_iff_iff]
  simp only [getLsbD_seven_eq_decide, addWithCarry_r_toNat, byte_toInt_eq, Bool.and_eq_true, beq_iff_eq,
    bne_iff_ne, decide_eq_decide, decide_eq_true_eq, ne_eq]
  -- One case for each pair of signs; only equal signs can leave the range.
  split <;> split <;> omega

end Sum

/-! ## The addition on the state -/

/-- The status an addition leaves, flag by flag: `D` among those kept. -/
theorem statusIs_statusAdd (p : Byte) (res : AddResult) :
    StatusIs (statusAdd p res) res.n res.v (flagU p) (flagB p) (flagD p) (flagI p) res.z res.c := by
  simp [StatusIs]

section SetAdd
variable (t : State) (res : AddResult)

@[simp] theorem setAdd_a : (t.setAdd res).a = res.r := rfl
@[simp] theorem setAdd_x : (t.setAdd res).x = t.x := rfl
@[simp] theorem setAdd_y : (t.setAdd res).y = t.y := rfl
@[simp] theorem setAdd_sp : (t.setAdd res).sp = t.sp := rfl
@[simp] theorem setAdd_pc : (t.setAdd res).pc = t.pc := rfl
@[simp] theorem setAdd_p : (t.setAdd res).p = statusAdd t.p res := rfl

@[simp] theorem registersOnly_setAdd {s : State} :
    RegistersOnly s (t.setAdd res) ↔ RegistersOnly s t := .rfl

end SetAdd

/-- An instruction that adds a byte made of its operand to `A` completes in each listed form, with the
sum of R170 in `A` and its four flags in the status, and nothing else changed beyond the operand's reads. -/
theorem runs_of_runRead_setAdd {i : Instr} {forms : List Form} {o : Operand} {s : State}
    {addend : Byte → Byte} {post : State → Prop}
    (run : exec i s = runRead i o (fun m t => t.setAdd (addWithCarry t.a (addend m) (flagC t.p))) s)
    (rows : forms.all (Form.isRowOf i.mnemonic) = true)
    (holds : ∀ t : State, let res := addWithCarry s.a (addend (operandByte o s)) (flagC s.p)
      Regs t res.r s.x s.y s.sp s.pc →
      StatusIs t.p res.n res.v (flagU s.p) (flagB s.p) (flagD s.p) (flagI s.p) res.z res.c →
      ReadsOperand o s t → post t) :
    Runs i forms (crossCost o s) s post := by
  refine runs_of_runRead run rows fun out => holds _ ?_ ?_ (.of_registersOnly ?_)
  · simp [Regs]
  · simpa using statusIs_statusAdd s.p _
  · simp

/-! ## ADC -/

theorem exec_adc (o : Operand) (s : State) : exec (.adc o) s =
    runRead (.adc o) o (fun m t => t.setAdd (addWithCarry t.a m (flagC t.p))) s := rfl

theorem formsAdc_rows : formsAdc.all (Form.isRowOf .ADC) = true := by decide +kernel

/-- Settles O23: ADC is the addition of the operand byte itself, whose signed overflow is the one by
signs. -/
theorem addWithCarryRule : Obligations.AddWithCarryRule := by
  unfold Obligations.AddWithCarryRule
  intro o s
  refine runs_of_runRead_setAdd (addend := id) (exec_adc o s) formsAdc_rows fun t regs status reads => ?_
  have result : t.a = (addWithCarry s.a (operandByte o s) (flagC s.p)).r := regs.1
  dsimp only
  rw [result]
  refine ⟨addWithCarry_r_toNat .., regs, ?_, addWithCarry_v_eq_decide_toInt .., reads⟩
  simpa only [id, addWithCarry_n, addWithCarry_v, addWithCarry_z, addWithCarry_c] using status

end Sys2Proof.Machine
end

section
/-! PROOFS. Instructions that read their operand once and write it back once (20_memory.md R64,
45_shift.md R194), for any such instruction. -/

namespace Sys2Proof

theorem Operand.eq_accumulator_of_mode {o : Operand} (h : o.mode = .accumulator) : o = .accumulator := by
  cases o with
  | accumulator => rfl
  | _ => cases h

end Sys2Proof

namespace Sys2Proof.Machine

@[simp] theorem storesAt_setP {ea : Word} {v : Byte} {u t : State} (p : Byte) :
    StoresAt ea v u (t.setP p) ↔ StoresAt ea v u t := .rfl

@[simp] theorem storesAt_setOut {ea : Word} {v : Byte} {u t : State} (out : StepOutput) :
    StoresAt ea v u (t.setOut out) ↔ StoresAt ea v u t := .rfl

/-- The write-back of a result is what the statements say of it, whatever status and output the
instruction then leaves: `A` and nothing else in Accumulator mode, one bus write in every other. -/
theorem modifiesOperand_writePlace {o : Operand} (notImmediate : o.mode ≠ .immediate) (r p : Byte)
    (s : State) (out : StepOutput) : ModifiesOperand o r s
      (((writePlace (resolve o s).place r (afterOperand o s)).setP p).setOut out) := by
  by_cases accumulator : o.mode = .accumulator
  · obtain rfl := Operand.eq_accumulator_of_mode accumulator
    exact ⟨rfl, registersOnly_self s⟩
  · obtain ⟨ea, place⟩ := resolve_bus accumulator notImmediate s
    simp only [ModifiesOperand, place, writePlace_bus, storesAt_setOut, storesAt_setP]
    exact ⟨by simp, storesAt_memWrite ea r _ out⟩

/-- A modified operand that is not `A` leaves `A` as it was. -/
theorem ModifiesOperand.a_of_mode {o : Operand} {r : Byte} {s t : State} (h : ModifiesOperand o r s t)
    (notAccumulator : o.mode ≠ .accumulator) : t.a = s.a := by
  cases o with
  | accumulator => exact absurd rfl notAccumulator
  | immediate v => cases h
  | _ => exact h.1

/-- A form whose operand can be written back, at one cost. -/
def Form.modifiesOperand (f : Form) : Bool := decide (f.mode ≠ .immediate) && !f.plus

theorem Form.modifiesOperand_iff {f : Form} :
    f.modifiesOperand = true ↔ f.mode ≠ .immediate ∧ f.plus = false := by
  simp [Form.modifiesOperand]

/-- An instruction that makes of its operand byte and the status a result and a new status completes in
each listed form: the result written back, the new status, and no register but a written `A` changed. -/
theorem runs_of_runModify {i : Instr} {forms : List Form} {o : Operand} {s : State}
    {f : Byte → Byte → Byte × Byte} {post : State → Prop}
    (run : exec i s = runModify i o f s) (modes : i.mode = o.mode)
    (rows : forms.all (Form.isRowOf i.mnemonic) = true)
    (writable : forms.all Form.modifiesOperand = true)
    (holds : ∀ form ∈ forms, form.mode = o.mode → ∀ t : State,
      Regs t t.a s.x s.y s.sp s.pc → t.p = (f (operandByte o s) s.p).2 →
      ModifiesOperand o (f (operandByte o s) s.p).1 s t → post t) :
    Runs i forms flatCost s post := by
  have writable' := fun form listed =>
    Form.modifiesOperand_iff.mp (List.all_eq_true.mp writable form listed)
  refine runs_of_runForm run rows (fun form listed => ?_) (fun form listed mode out => ?_)
  · obtain ⟨-, noPlus⟩ := writable' form listed
    rw [noPlus]; rfl
  · obtain ⟨notImmediate, -⟩ := writable' form listed
    rw [mode, modes] at notImmediate
    rw [← afterOperand_p o s] at holds
    refine holds form listed (mode.trans modes) _ ?_ rfl (modifiesOperand_writePlace notImmediate ..)
    simp [Regs]

end Sys2Proof.Machine
end

section
/-! PROOFS. INC and DEC (44_incdec.md R180, R181), and INX, INY, DEX, DEY (R182 to R185). -/

namespace Sys2Proof.Machine

/-- An instruction that writes `op` of its operand byte back to memory and takes `Z` and `N` from the
result completes in each listed form with the registers as before. -/
theorem runs_of_runModify_statusZN {i : Instr} {forms : List Form} {o : Operand} {s : State}
    (op : Byte → Byte) (run : exec i s = runModify i o (fun v p => (op v, statusZN p (op v))) s)
    (modes : i.mode = o.mode) (rows : forms.all (Form.isRowOf i.mnemonic) = true)
    (writable : forms.all Form.modifiesOperand = true)
    (onBus : ∀ form ∈ forms, form.mode ≠ .accumulator) :
    Runs i forms flatCost s (fun t =>
      Regs t s.a s.x s.y s.sp s.pc ∧ SetsZN s.p t.p (op (operandByte o s)) ∧
        ModifiesOperand o (op (operandByte o s)) s t) := by
  refine runs_of_runModify run modes rows writable fun form listed mode t regs status modifies => ?_
  have keepsA : t.a = s.a := modifies.a_of_mode (mode ▸ onBus form listed)
  rw [keepsA] at regs
  exact ⟨regs, status ▸ setsZN_statusZN s.p _, modifies⟩

section Dispatch
variable (o : Operand) (s : State)

theorem exec_inc : exec (.inc o) s =
    runModify (.inc o) o (fun v p => (v + 1, statusZN p (v + 1))) s := rfl
theorem exec_dec : exec (.dec o) s =
    runModify (.dec o) o (fun v p => (v - 1, statusZN p (v - 1))) s := rfl
theorem exec_inx : exec .inx s = runImplicit .inx (fun t => (t.setX (t.x + 1)).setZN (t.x + 1)) s := rfl
theorem exec_iny : exec .iny s = runImplicit .iny (fun t => (t.setY (t.y + 1)).setZN (t.y + 1)) s := rfl
theorem exec_dex : exec .dex s = runImplicit .dex (fun t => (t.setX (t.x - 1)).setZN (t.x - 1)) s := rfl
theorem exec_dey : exec .dey s = runImplicit .dey (fun t => (t.setY (t.y - 1)).setZN (t.y - 1)) s := rfl

end Dispatch

theorem formsInc_rows : formsInc.all (Form.isRowOf .INC) = true := by decide +kernel
theorem formsDec_rows : formsDec.all (Form.isRowOf .DEC) = true := by decide +kernel

/-- Settles O26: both are one read and one write-back at a bus address, which leaves `A` alone. -/
theorem incDecMemory : Obligations.IncDecMemory := by
  unfold Obligations.IncDecMemory
  intro o s
  exact ⟨runs_of_runModify_statusZN (· + 1) (exec_inc o s) rfl formsInc_rows (by decide) (by decide),
    runs_of_runModify_statusZN (· - 1) (exec_dec o s) rfl formsDec_rows (by decide) (by decide)⟩

/-- Settles O27: each writes one index register and, from the same byte, `Z` and `N`. -/
theorem incDecRegisters : Obligations.IncDecRegisters := by
  unfold Obligations.IncDecRegisters
  intro s
  refine ⟨runs_of_runImplicit (exec_inx s) (by decide +kernel) fun out => ⟨?_, ?_, ?_⟩,
    runs_of_runImplicit (exec_iny s) (by decide +kernel) fun out => ⟨?_, ?_, ?_⟩,
    runs_of_runImplicit (exec_dex s) (by decide +kernel) fun out => ⟨?_, ?_, ?_⟩,
    runs_of_runImplicit (exec_dey s) (by decide +kernel) fun out => ⟨?_, ?_, ?_⟩⟩
  all_goals simp [Regs, setsZN_statusZN]

end Sys2Proof.Machine
end

section
/-! PROOFS. ASL, LSR, ROL, ROR (45_shift.md R190 to R193): the bitwise results as arithmetic on the
operand and the carry, and the four instructions as one. -/

namespace Sys2Proof.Machine

/-! ## The results -/

theorem carryIn_toNat_zero (c : Bool) : (carryIn c 0).toNat = c.toNat := by cases c <;> rfl

theorem carryIn_toNat_seven (c : Bool) : (carryIn c 7).toNat = 128 * c.toNat := by cases c <;> rfl

/-- The byte of carry holds it at its bit and nothing elsewhere. -/
theorem carryIn_getElem (c : Bool) (bit i : Nat) (inByte : i < 8) :
    (carryIn c bit)[i] = (c && decide (i = bit)) := by
  cases c with
  | false => simp [carryIn]
  | true =>
    rw [Bool.eq_iff_iff]
    simp only [carryIn, if_true, BitVec.getElem_shiftLeft, BitVec.getElem_one, Bool.true_and,
      Bool.and_eq_true, Bool.not_eq_true', decide_eq_true_eq, decide_eq_false_iff_not]
    omega

theorem and_carryIn_eq_zero {v : Byte} {bit : Nat} (clear : v.getLsbD bit = false) (c : Bool) :
    v &&& carryIn c bit = 0#8 := by
  ext i inByte
  by_cases here : i = bit
  · simp [← BitVec.getLsbD_eq_getElem, here, clear]
  · simp [carryIn_getElem, here]

/-- The `|` of R192 and R193 is a sum, for the carry enters at the bit the shift has cleared. -/
theorem or_carryIn_eq_add {v : Byte} {bit : Nat} (clear : v.getLsbD bit = false) (c : Bool) :
    v ||| carryIn c bit = v + carryIn c bit :=
  (BitVec.add_eq_or_of_and_eq_zero _ _ (and_carryIn_eq_zero clear c)).symm

theorem shiftLeft_or_carryIn (v : Byte) (c : Bool) :
    v <<< 1 ||| carryIn c 0 = BitVec.ofNat 8 (2 * v.toNat + c.toNat) := by
  have clear : (v <<< 1).getLsbD 0 = false := by simp
  rw [or_carryIn_eq_add clear]
  apply BitVec.eq_of_toNat_eq
  simp only [BitVec.toNat_add, BitVec.toNat_shiftLeft, carryIn_toNat_zero, BitVec.toNat_ofNat,
    Nat.shiftLeft_eq]
  omega

theorem ushiftRight_or_carryIn (v : Byte) (c : Bool) :
    v >>> 1 ||| carryIn c 7 = BitVec.ofNat 8 (v.toNat / 2 + 128 * c.toNat) := by
  have clear : (v >>> 1).getLsbD 7 = false := by simp
  rw [or_carryIn_eq_add clear]
  apply BitVec.eq_of_toNat_eq
  simp only [BitVec.toNat_add, BitVec.toNat_ushiftRight, carryIn_toNat_seven, BitVec.toNat_ofNat,
    Nat.shiftRight_eq_div_pow]

section Results
variable (v p : Byte)

/-- ASL is the left shift of no carry. -/
theorem shiftAsl_eq : shiftAsl v p = (BitVec.ofNat 8 (2 * v.toNat),
    statusShift p (v.getLsbD 7) (BitVec.ofNat 8 (2 * v.toNat))) := by
  have result : v <<< 1 = BitVec.ofNat 8 (2 * v.toNat) := by
    simpa [carryIn] using shiftLeft_or_carryIn v false
  rw [shiftAsl, result]

/-- LSR is the right shift of no carry. -/
theorem shiftLsr_eq : shiftLsr v p = (BitVec.ofNat 8 (v.toNat / 2),
    statusShift p (v.getLsbD 0) (BitVec.ofNat 8 (v.toNat / 2))) := by
  have result : v >>> 1 = BitVec.ofNat 8 (v.toNat / 2) := by
    simpa [carryIn] using ushiftRight_or_carryIn v false
  rw [shiftLsr, result]

theorem shiftRol_eq : shiftRol v p = (BitVec.ofNat 8 (2 * v.toNat + (flagC p).toNat),
    statusShift p (v.getLsbD 7) (BitVec.ofNat 8 (2 * v.toNat + (flagC p).toNat))) := by
  rw [shiftRol, shiftLeft_or_carryIn]

theorem shiftRor_eq : shiftRor v p = (BitVec.ofNat 8 (v.toNat / 2 + 128 * (flagC p).toNat),
    statusShift p (v.getLsbD 0) (BitVec.ofNat 8 (v.toNat / 2 + 128 * (flagC p).toNat))) := by
  rw [shiftRor, ushiftRight_or_carryIn]

end Results

/-! ## The instructions -/

/-- The flags of a shift are what the statements say of them, flag by flag. -/
theorem setsZNC_statusShift (p r : Byte) (out : Bool) : SetsZNC p (statusShift p out r) r out := by
  simp [SetsZNC, StatusIs, beq_eq_decide]

/-- An instruction that makes `r` of its operand byte, with the bit `out` shifted out, completes in each
listed form: `r` written back, `C` from `out`, `Z` and `N` from `r`, and nothing else changed. -/
theorem runs_of_runModify_statusShift {i : Instr} {forms : List Form} {o : Operand} {s : State}
    {f : Byte → Byte → Byte × Byte} {r : Byte} {out : Bool}
    (run : exec i s = runModify i o f s) (modes : i.mode = o.mode)
    (rows : forms.all (Form.isRowOf i.mnemonic) = true)
    (writable : forms.all Form.modifiesOperand = true)
    (shift : f (operandByte o s) s.p = (r, statusShift s.p out r)) :
    Runs i forms flatCost s (fun t =>
      Regs t t.a s.x s.y s.sp s.pc ∧ SetsZNC s.p t.p r out ∧ ModifiesOperand o r s t) := by
  refine runs_of_runModify run modes rows writable fun form listed mode t regs status modifies => ?_
  rw [shift] at status modifies
  exact ⟨regs, status ▸ setsZNC_statusShift s.p r out, modifies⟩

section Dispatch
variable (o : Operand) (s : State)

theorem exec_asl : exec (.asl o) s = runModify (.asl o) o shiftAsl s := rfl
theorem exec_lsr : exec (.lsr o) s = runModify (.lsr o) o shiftLsr s := rfl
theorem exec_rol : exec (.rol o) s = runModify (.rol o) o shiftRol s := rfl
theorem exec_ror : exec (.ror o) s = runModify (.ror o) o shiftRor s := rfl

end Dispatch

theorem formsAsl_rows : formsAsl.all (Form.isRowOf .ASL) = true := by decide +kernel
theorem formsLsr_rows : formsLsr.all (Form.isRowOf .LSR) = true := by decide +kernel
theorem formsRol_rows : formsRol.all (Form.isRowOf .ROL) = true := by decide +kernel
theorem formsRor_rows : formsRor.all (Form.isRowOf .ROR) = true := by decide +kernel

/-- Settles O28: each is one read and one write-back, to `A` or to a bus address, of the operand shifted
by one bit with the carry (none for ASL and LSR) added at the bit left clear. -/
theorem shiftsAndRotates : Obligations.ShiftsAndRotates := by
  unfold Obligations.ShiftsAndRotates
  intro o s
  exact ⟨runs_of_runModify_statusShift (exec_asl o s) rfl formsAsl_rows (by decide) (shiftAsl_eq ..),
    runs_of_runModify_statusShift (exec_lsr o s) rfl formsLsr_rows (by decide) (shiftLsr_eq ..),
    runs_of_runModify_statusShift (exec_rol o s) rfl formsRol_rows (by decide) (shiftRol_eq ..),
    runs_of_runModify_statusShift (exec_ror o s) rfl formsRor_rows (by decide) (shiftRor_eq ..)⟩

end Sys2Proof.Machine
end

section
/-! PROOFS. Instructions that write the status byte alone, and CLC, SEC, CLV (48_flags.md R225, R226,
R229). -/

namespace Sys2Proof.Machine

theorem statusIs_withC (p : Byte) (c : Bool) :
    StatusIs (withC p c) (flagN p) (flagV p) (flagU p) (flagB p) (flagD p) (flagI p) (flagZ p) c := by
  simp [StatusIs]

theorem statusIs_withV (p : Byte) (v : Bool) :
    StatusIs (withV p v) (flagN p) v (flagU p) (flagB p) (flagD p) (flagI p) (flagZ p) (flagC p) := by
  simp [StatusIs]

/-- An instruction with no operand that makes `f p` of the status byte `p` completes in each listed form
with the flags of `f p`, every register as before, and nothing else changed. -/
theorem runs_of_runImplicit_setP {i : Instr} {forms : List Form} {s : State}
    {n v u b d j z c : Bool} (f : Byte → Byte)
    (run : exec i s = runImplicit i (fun t => t.setP (f t.p)) s)
    (rows : forms.all (Form.isRowOf i.mnemonic) = true)
    (status : StatusIs (f s.p) n v u b d j z c) :
    Runs i forms flatCost s (fun t =>
      Regs t s.a s.x s.y s.sp s.pc ∧ RegistersOnly s t ∧ StatusIs t.p n v u b d j z c) := by
  refine runs_of_runImplicit run rows fun out => ⟨?_, ?_, ?_⟩
  · simp [Regs]
  · simp
  · simpa using status

section Dispatch
variable (s : State)

theorem exec_clc : exec .clc s = runImplicit .clc (fun t => t.setP (withC t.p false)) s := rfl
theorem exec_sec : exec .sec s = runImplicit .sec (fun t => t.setP (withC t.p true)) s := rfl
theorem exec_clv : exec .clv s = runImplicit .clv (fun t => t.setP (withV t.p false)) s := rfl

end Dispatch

/-- Settles O31: each is one write of the status byte, in which one bit is set to a constant. -/
theorem carryOverflowFlags : Obligations.CarryOverflowFlags := by
  unfold Obligations.CarryOverflowFlags
  intro s
  exact ⟨runs_of_runImplicit_setP (withC · false) (exec_clc s) (by decide +kernel)
      (statusIs_withC s.p false),
    runs_of_runImplicit_setP (withC · true) (exec_sec s) (by decide +kernel)
      (statusIs_withC s.p true),
    runs_of_runImplicit_setP (withV · false) (exec_clv s) (by decide +kernel)
      (statusIs_withV s.p false)⟩

end Sys2Proof.Machine
end

section
/-! PROOFS. NOP (49_system.md R237). -/

namespace Sys2Proof.Machine

theorem exec_nop (s : State) : exec .nop s = runImplicit .nop (fun t => t) s := rfl

/-- Settles O35: NOP is an instruction with no operand whose effect is the identity, so only the output
of the step is written. -/
theorem noOperation : Obligations.NoOperation := by
  unfold Obligations.NoOperation
  intro s
  refine runs_of_runImplicit (exec_nop s) (by decide +kernel) fun out => ⟨?_, ?_, ?_⟩
  · simp [Regs]
  · simp
  · simp

end Sys2Proof.Machine
end

section
/-! PROOFS. The instruction table (30_encoding.md sections 4 to 7): its exceptions, its branch rows, and
the rows of the encodings that the statements settled below list. -/

namespace Sys2Proof.Machine

/-- Settles O1: each word, read through its row of the table. -/
theorem writtenWordsDecode : Obligations.WrittenWordsDecode := by
  unfold Obligations.WrittenWordsDecode
  refine ⟨?_, ?_, ?_, ?_, ?_, ?_, ?_, ?_, ?_, ?_, ?_, ?_, ?_, ?_⟩
  all_goals rfl

/-- Settles O5: a finite fact of the 256 rows. -/
theorem tableExceptions : Obligations.TableExceptions := by
  unfold Obligations.TableExceptions
  exact ⟨rfl, by decide +kernel, by decide +kernel⟩

/-- A row without a documented instruction stands at a listed byte. -/
theorem illegal_of_tableEntry_mnemonic {op : Byte} (ill : (tableEntry op).mnemonic = .ILL) :
    illegalOpcodes.contains op = true := by
  obtain ⟨-, -, rows⟩ := tableExceptions
  obtain ⟨-, documented, -, -⟩ := rows op
  by_contra notListed
  obtain ⟨-, notIll, -⟩ := documented (eq_false_of_ne_true notListed)
  exact notIll ill

/-- The rows of mode Relative are the branches: they have the branch penalty and not the other. -/
theorem tableEntry_relative (op : Byte) : (tableEntry op).mode = .relative →
    (tableEntry op).branchPenalty = true ∧ (tableEntry op).pageCrossPenalty = false := by
  revert op; decide +kernel

/-- Encodings of spec/41 to 49, by mnemonic. -/
def listedForms : List (Mnemonic × List Form) :=
  [(.PHP, [⟨.implicit, 0x08, 1, 3, false⟩]), (.PLP, [⟨.implicit, 0x28, 1, 4, false⟩]),
   (.SBC, formsSbc), (.CMP, formsCmp), (.CPX, formsCpx), (.CPY, formsCpy),
   (.JMP, formsJmp), (.JSR, [⟨.absolute, 0x20, 3, 6, false⟩]), (.RTS, [⟨.implicit, 0x60, 1, 6, false⟩]),
   (.BCC, [⟨.relative, 0x90, 2, 2, false⟩]), (.BCS, [⟨.relative, 0xB0, 2, 2, false⟩]),
   (.BEQ, [⟨.relative, 0xF0, 2, 2, false⟩]), (.BNE, [⟨.relative, 0xD0, 2, 2, false⟩]),
   (.BMI, [⟨.relative, 0x30, 2, 2, false⟩]), (.BPL, [⟨.relative, 0x10, 2, 2, false⟩]),
   (.BVC, [⟨.relative, 0x50, 2, 2, false⟩]), (.BVS, [⟨.relative, 0x70, 2, 2, false⟩]),
   (.CLI, [⟨.implicit, 0x58, 1, 2, false⟩]), (.SEI, [⟨.implicit, 0x78, 1, 2, false⟩]),
   (.CLD, [⟨.implicit, 0xD8, 1, 2, false⟩]), (.SED, [⟨.implicit, 0xF8, 1, 2, false⟩]),
   (.BRK, [⟨.implicit, 0x00, 1, 7, false⟩]), (.RTI, [⟨.implicit, 0x40, 1, 6, false⟩])]

theorem listedForms_rows : listedForms.all (fun r => r.2.all (Form.isRowOf r.1)) = true := by
  decide +kernel

/-- A listed encoding is the table's. -/
theorem rows_of_listed (mn : Mnemonic) {forms : List Form} (h : (mn, forms) ∈ listedForms) :
    forms.all (Form.isRowOf mn) = true := List.all_eq_true.mp listedForms_rows _ h

end Sys2Proof.Machine
end

section
/-! PROOFS. The decoder and the encoder are inverse (30_encoding.md sections 1, 5, 6): what the
decoder accepts, which terms have a row, and that these are the ones that complete. -/

namespace Sys2Proof

/-! ## Terms that have a row -/

/-- A term is well formed when its mnemonic has its mode and, if it is `ill`, its byte is illegal. -/
theorem Instr.wf_iff {i : Instr} : i.wf = true ↔
    i.mode ∈ formsOf i.mnemonic ∧ ∀ op, i = .ill op → illegalOpcodes.contains op = true := by
  unfold Instr.wf
  rw [Bool.and_eq_true, List.contains_iff_mem]
  cases i
  case ill op => simp only [Instr.ill.injEq, forall_eq']
  all_goals simp

theorem Instr.wf_of_entry {i : Instr} {e : TableEntry} (h : i.entry = some e) : i.wf = true := by
  obtain ⟨row, mnemonic, mode⟩ := entry_spec h
  refine Instr.wf_iff.mpr ⟨?_, ?_⟩
  · have form := tableEntry_form e.opcode
    rwa [row, mnemonic, mode] at form
  · rintro op rfl
    rw [Instr.entry] at h
    split at h
    · exact Machine.illegal_of_tableEntry_mnemonic ‹_›
    · cases h

theorem Instr.entry_of_not_wf {i : Instr} (h : i.wf = false) : i.entry = none := by
  cases entry : i.entry with
  | none => rfl
  | some e => rw [Instr.wf_of_entry entry] at h; cases h

/-- The row of an `ill` stands at its own byte. -/
theorem opcode_of_entry_ill {op : Byte} {e : TableEntry} (h : (Instr.ill op).entry = some e) :
    e.opcode = op := by
  rw [Instr.entry] at h
  split at h
  · obtain rfl := Option.some.inj h
    exact tableEntry_opcode op
  · cases h

/-! ## Operand bytes -/

theorem operandOf_bytes (o : Operand) :
    operandOf o.mode (o.bytes.getD 0 0) (o.bytes.getD 1 0) = o := by
  cases o <;> simp [operandOf, Operand.mode, Operand.bytes]

/-- A term is the instruction of its row at its operand bytes. -/
theorem instrOf_operandBytes {i : Instr} {e : TableEntry} (h : i.entry = some e) :
    instrOf e (i.operandBytes.getD 0 0) (i.operandBytes.getD 1 0) = i := by
  obtain ⟨-, mnemonic, mode⟩ := entry_spec h
  rw [instrOf, mnemonic, mode]
  cases i
  case ill op => simp only [Instr.mnemonic, opcode_of_entry_ill h]
  case lda o | ldx o | ldy o | sta o | stx o | sty o | and o | ora o | eor o | bit o | adc o | sbc o
      | cmp o | cpx o | cpy o | inc o | dec o | asl o | lsr o | rol o | ror o | jmp o =>
    simp only [Instr.mnemonic, Instr.mode, Instr.operandBytes, operandOf_bytes]
  case jsr target => simp [Instr.mnemonic, Instr.operandBytes]
  all_goals rfl

theorem bytes_operandOf {m : Mode} (h : m ≠ .implicit ∧ m ≠ .relative) (lo hi : Byte) :
    (operandOf m lo hi).bytes = [lo, hi].take (m.length - 1) := by
  obtain ⟨notImplicit, notRelative⟩ := h
  cases m
  case implicit => exact absurd rfl notImplicit
  case relative => exact absurd rfl notRelative
  all_goals simp [operandOf, Operand.bytes, Mode.length, Mode.format]

/-- The operand bytes of a row's instruction are as many of the given ones as its mode has. -/
theorem operandBytes_instrOf {e : TableEntry} (form : e.mode ∈ formsOf e.mnemonic) (lo hi : Byte) :
    (instrOf e lo hi).operandBytes = [lo, hi].take (e.mode.length - 1) := by
  obtain ⟨op, mn, mode, cycles, page, branch⟩ := e
  dsimp only at form
  cases mn
  case LDA | LDX | LDY | STA | STX | STY | AND | ORA | EOR | BIT | ADC | SBC | CMP | CPX | CPY | INC
      | DEC | ASL | LSR | ROL | ROR | JMP =>
    exact bytes_operandOf ((by decide : ∀ m ∈ formsOf _, m ≠ .implicit ∧ m ≠ .relative) mode form) lo hi
  all_goals
    obtain rfl := List.mem_singleton.mp form
    simp [instrOf, Instr.operandBytes, Mode.length, Mode.format]

theorem entry_instrOf (op lo hi : Byte) :
    (instrOf (tableEntry op) lo hi).entry = some (tableEntry op) := by
  by_cases ill : (tableEntry op).mnemonic = .ILL
  · rw [instrOf, ill, tableEntry_opcode]
    simp only [Instr.entry, ill, if_true]
  · rw [entry_eq_rowOf (by rwa [instrOf_mnemonic]), instrOf_mnemonic,
      instrOf_mode (tableEntry_form op), rowOf_tableEntry op ill]

/-! ## The decoder -/

/-- The decoder takes as many operand bytes as the opcode's mode has and leaves the others. -/
theorem decode_operandBytes {op : Byte} {ops : List Byte}
    (h : ops.length + 1 = (tableEntry op).mode.length) (rest : List Byte) :
    decode (op :: ops ++ rest) = .ok (instrOf (tableEntry op) (ops.getD 0 0) (ops.getD 1 0), rest) := by
  rw [Mode.length] at h
  cases format : (tableEntry op).mode.format with
  | op =>
    rw [format] at h
    obtain rfl := List.eq_nil_of_length_eq_zero (by simpa using h)
    exact decode_op format rest
  | opB =>
    rw [format] at h
    obtain ⟨lo, rfl⟩ := List.length_eq_one_iff.mp (by simpa using h)
    exact decode_opB format lo rest
  | opW =>
    rw [format] at h
    obtain ⟨lo, hi, rfl⟩ := List.length_eq_two.mp (by simpa using h)
    exact decode_opW format lo hi rest

/-- What the decoder accepts begins with an opcode and operand bytes enough for its mode. -/
theorem decode_eq_ok {bs rest : List Byte} {i : Instr} (h : decode bs = .ok (i, rest)) :
    ∃ op lo hi, i = instrOf (tableEntry op) lo hi ∧
      bs = op :: [lo, hi].take ((tableEntry op).mode.length - 1) ++ rest := by
  cases bs with
  | nil => cases h
  | cons op bs =>
    refine ⟨op, ?_⟩
    rw [Mode.length]
    simp only [decode] at h
    split at h
    · cases h; exact ⟨0, 0, rfl, by simp only [*]; rfl⟩
    · cases h; exact ⟨_, 0, rfl, by simp only [*]; rfl⟩
    · cases h
    · cases h; exact ⟨_, _, rfl, by simp only [*]; rfl⟩
    · cases h
    · cases h

/-- Settles O2: a well-formed instruction has a row, and is that row's instruction at its operand bytes,
which are as many as the decoder takes. -/
theorem decodeOfEncode : Obligations.DecodeOfEncode := by
  unfold Obligations.DecodeOfEncode
  intro i rest wf
  obtain ⟨e, entry⟩ := wf_entry wf
  obtain ⟨row, -, mode⟩ := entry_spec entry
  have enough : i.operandBytes.length + 1 = (tableEntry e.opcode).mode.length := by
    rw [operandBytes_length, row, mode]
  rw [encode_eq_cons entry, decode_operandBytes enough, row, instrOf_operandBytes entry]

/-- Settles O3: the decoder reads the instruction of a row, whose bytes are the opcode and the operand
bytes read. -/
theorem encodeOfDecode : Obligations.EncodeOfDecode := by
  unfold Obligations.EncodeOfDecode
  intro bs rest i decoded
  obtain ⟨op, lo, hi, rfl, rfl⟩ := decode_eq_ok decoded
  have entry := entry_instrOf op lo hi
  refine ⟨Instr.wf_of_entry entry, ?_⟩
  rw [encode_eq_cons entry, tableEntry_opcode, operandBytes_instrOf (tableEntry_form op)]

end Sys2Proof

namespace Sys2Proof.Machine

/-- Settles O37: the well-formed terms are those with a row, and a row is all that a meaning needs to
complete. -/
theorem everyInstructionCompletes : Obligations.EveryInstructionCompletes := by
  unfold Obligations.EveryInstructionCompletes
  intro i s
  refine ⟨fun wf => ?_, fun illFormed => exec_refused (Instr.entry_of_not_wf illFormed) s⟩
  obtain ⟨e, entry⟩ := wf_entry wf
  obtain ⟨t, next, -⟩ := exec_next entry s
  exact ⟨t, next⟩

end Sys2Proof.Machine
end

section
/-! PROOFS. The state an instruction leaves, for each shape of a meaning, and who may change flags,
registers, `RAM` and the halt (10_state.md sections 2 to 5, 20_memory.md section 6). -/

namespace Sys2Proof.Machine

/-! ## The next state of each shape -/

/-- Only a well-formed instruction completes. -/
theorem wf_of_exec_next {i : Instr} {s t : State} (h : exec i s = .next t) : i.wf = true := by
  cases entry : i.entry with
  | some e => exact Instr.wf_of_entry entry
  | none => rw [exec_refused entry] at h; cases h

theorem form_of_exec_next {i : Instr} {s t : State} (h : exec i s = .next t) :
    i.mode ∈ formsOf i.mnemonic :=
  (Instr.wf_iff.mp (wf_of_exec_next h)).1

section Next
variable {i : Instr} {o : Operand} {s t : State}

theorem next_of_runForm {body : State → Effect} (h : runForm i body s = .next t) :
    ∃ out, t = (body s).state.setOut out := by
  obtain ⟨e, -, rfl⟩ := runForm_next h
  exact ⟨_, rfl⟩

theorem next_of_runImplicit {g : State → State} (h : runImplicit i g s = .next t) :
    ∃ out, t = (g s).setOut out := next_of_runForm h

theorem next_of_runRead {f : Byte → State → State} (h : runRead i o f s = .next t) :
    ∃ out, t = (f (operandByte o s) (afterOperand o s)).setOut out := next_of_runForm h

theorem next_of_runStore {value : State → Byte} (h : runStore i o value s = .next t) :
    ∃ v out, t = (writePlace (resolve o s).place v (resolve o s).state).setOut out :=
  ⟨_, next_of_runForm h⟩

theorem next_of_runModify {f : Byte → Byte → Byte × Byte} (h : runModify i o f s = .next t) :
    ∃ v out, t = ((writePlace (resolve o s).place v (afterOperand o s)).setP
      (f (operandByte o s) (afterOperand o s).p).2).setOut out := ⟨_, next_of_runForm h⟩

theorem next_of_runBranch {cond : Byte → Bool} {d8 : Byte} (h : runBranch i cond d8 s = .next t) :
    ∃ pc out, t = (s.setPc pc).setOut out := by
  obtain ⟨out, rfl⟩ := next_of_runForm h
  dsimp only
  split
  · exact ⟨_, out, rfl⟩
  · exact ⟨s.pc, out, rfl⟩

end Next

theorem jumpTo_eq (pl : Place) (s : State) : ∃ pc, jumpTo pl s = s.setPc pc := by
  cases pl with
  | bus ea => exact ⟨ea, rfl⟩
  | accumulator => exact ⟨s.pc, rfl⟩
  | fetched v => exact ⟨s.pc, rfl⟩

theorem next_of_jmp {o : Operand} {s t : State} (h : execJmp o s = .next t) :
    ∃ pc out, t = ((resolve o s).state.setPc pc).setOut out := by
  obtain ⟨out, rfl⟩ := next_of_runForm h
  obtain ⟨pc, jumped⟩ := jumpTo_eq (resolve o s).place (resolve o s).state
  exact ⟨pc, out, by rw [← jumped]⟩

/-- The end of an entry sets `P.I`, moves `PC` and reads the vector through the bus. -/
theorem enterVector_onlyReads (kind : InterruptKind) (s : State) :
    OnlyReads ((s.setP (withI s.p true)).setPc (enterVector kind s).pc) (enterVector kind s) :=
  (read16_onlyReads (vector kind) (s.setP (withI s.p true))).setPc _

theorem next_of_brk {s t : State} (h : execBrk s = .next t) :
    ∃ out, t = (enterVector .softwareBreak
      (pushFrame .softwareBreak (s.setPc (s.pc + 1)))).setOut out := by
  obtain ⟨out, rfl⟩ := next_of_runImplicit h
  exact ⟨out, by rw [raiseInterrupt_taken (Or.inl (by decide))]⟩

theorem pushFrame_break_eq (s : State) : ∃ ram, pushFrame .softwareBreak s =
    (s.setRam ram).setSp (s.sp - 1 - 1 - 1) := ⟨_, pushFrame_eq (by decide) s⟩

/-- BRK changes `SP`, `PC`, `P.I`, `RAM` and what the reads of the vector change. -/
theorem brk_onlyReads {s t : State} (h : execBrk s = .next t) : ∃ ram out,
    OnlyReads
      (((((s.setRam ram).setSp (s.sp - 1 - 1 - 1)).setP (withI s.p true)).setPc t.pc).setOut out) t := by
  obtain ⟨out, rfl⟩ := next_of_brk h
  obtain ⟨ram, pushed⟩ := pushFrame_break_eq (s.setPc (s.pc + 1))
  obtain ⟨vb, wl, va, n, entered⟩ := enterVector_onlyReads .softwareBreak
    (pushFrame .softwareBreak (s.setPc (s.pc + 1)))
  refine ⟨ram, out, vb, wl, va, n, ?_⟩
  rw [entered, pushed]
  rfl

/-! ## Flags -/

/-- Settles O39: by the shape of each meaning, whose status is the one its function makes of `P`. -/
theorem flagWriters : Obligations.FlagWriters := by
  unfold Obligations.FlagWriters
  intro i s t ok next
  unfold exec at next
  obtain ⟨u, b⟩ : flagU s.p = true ∧ flagB s.p = false := by simpa [statusOk] using ok
  cases i
  case lda o | ldx o | ldy o | and o | ora o | eor o | bit o | adc o | sbc o | cmp o | cpx o | cpy o =>
    obtain ⟨out, rfl⟩ := next_of_runRead next
    simp [Instr.mnemonic]
  case sta o | stx o | sty o =>
    obtain ⟨v, out, rfl⟩ := next_of_runStore next
    simp
  case inc o | dec o | asl o | lsr o | rol o | ror o =>
    obtain ⟨v, out, rfl⟩ := next_of_runModify next
    simp [Instr.mnemonic, shiftAsl, shiftLsr, shiftRol, shiftRor]
  case jmp o =>
    obtain ⟨pc, out, rfl⟩ := next_of_jmp next
    simp
  case bcc d8 | bcs d8 | beq d8 | bne d8 | bmi d8 | bpl d8 | bvc d8 | bvs d8 =>
    obtain ⟨pc, out, rfl⟩ := next_of_runBranch next
    simp
  case brk =>
    obtain ⟨ram, out, reads⟩ := brk_onlyReads next
    simp [reads.p, Instr.mnemonic]
  all_goals
    obtain ⟨out, rfl⟩ := next_of_runImplicit next
    simp [Instr.mnemonic, push_eq, pushWord_eq, pop_snd, popWord_eq, returnFromInterrupt_eq, u, b]

/-! ## Registers -/

theorem writePlace_a_of_mode {o : Operand} (h : o.mode ≠ .accumulator) (v : Byte) (s u : State) :
    (writePlace (resolve o s).place v u).a = u.a := by
  cases o with
  | accumulator => exact absurd rfl h
  | immediate d8 => rfl
  | _ => exact memWrite_a _ _ _

/-- Settles O40: by the shape of each meaning; a read-modify-write changes `A` in Accumulator mode
only, which INC and DEC do not have. -/
theorem registerWriters : Obligations.RegisterWriters := by
  unfold Obligations.RegisterWriters
  intro i s t next
  have form := form_of_exec_next next
  unfold exec at next
  cases i
  case lda o | ldx o | ldy o | and o | ora o | eor o | bit o | adc o | sbc o | cmp o | cpx o | cpy o =>
    obtain ⟨out, rfl⟩ := next_of_runRead next
    simp [Instr.mnemonic]
  case sta o | stx o | sty o =>
    have notAccumulator : o.mode ≠ .accumulator := ne_of_mem_of_not_mem form (by
      simp [Instr.mnemonic, formsOf])
    obtain ⟨v, out, rfl⟩ := next_of_runStore next
    simp [writePlace_a_of_mode notAccumulator]
  case inc o | dec o =>
    have notAccumulator : o.mode ≠ .accumulator := ne_of_mem_of_not_mem form (by
      simp [Instr.mnemonic, formsOf, readModifyWriteModes])
    obtain ⟨v, out, rfl⟩ := next_of_runModify next
    simp [writePlace_a_of_mode notAccumulator]
  case asl o | lsr o | rol o | ror o =>
    obtain ⟨v, out, rfl⟩ := next_of_runModify next
    by_cases accumulator : o.mode = .accumulator
    · simp [Instr.mnemonic, Instr.mode, accumulator]
    · simp [writePlace_a_of_mode accumulator]
  case jmp o =>
    obtain ⟨pc, out, rfl⟩ := next_of_jmp next
    simp [Instr.mnemonic]
  case bcc d8 | bcs d8 | beq d8 | bne d8 | bmi d8 | bpl d8 | bvc d8 | bvs d8 =>
    obtain ⟨pc, out, rfl⟩ := next_of_runBranch next
    simp [Instr.mnemonic]
  case brk =>
    obtain ⟨ram, out, reads⟩ := brk_onlyReads next
    simp [reads.a, reads.x, reads.y, Instr.mnemonic]
  all_goals
    obtain ⟨out, rfl⟩ := next_of_runImplicit next
    simp [Instr.mnemonic, push_eq, pushWord_eq, pop_snd, popWord_eq, returnFromInterrupt_eq]

/-! ## Memory, the halt and what no instruction changes -/

section AfterOperand
variable (o : Operand) (s : State)

@[simp] theorem afterOperand_ram : (afterOperand o s).ram = s.ram := (afterOperand_onlyReads o s).ram
@[simp] theorem afterOperand_halted : (afterOperand o s).halted = s.halted :=
  (afterOperand_onlyReads o s).halted
@[simp] theorem afterOperand_faultOpcode : (afterOperand o s).faultOpcode = s.faultOpcode :=
  (afterOperand_onlyReads o s).faultOpcode

end AfterOperand

/-- The state that belongs to the host and to the advance of the unit is as before. -/
def KeepsOutside (s t : State) : Prop :=
  t.nmiPending = s.nmiPending ∧ t.cart = s.cart ∧ t.resetDone = s.resetDone ∧ t.inputs = s.inputs ∧
    t.vtu.scanline = s.vtu.scanline ∧ t.vtu.dot = s.vtu.dot ∧ t.vtu.sprite0 = s.vtu.sprite0 ∧
    t.vtu.frameReady = s.vtu.frameReady ∧ t.vtu.frameBuffer = s.vtu.frameBuffer

/-- What the operations of an instruction keep together: `KeepsOutside`, and storages that are canonical
stay so. -/
def KeepsRest (s t : State) : Prop :=
  KeepsOutside s t ∧ (s.memoryWf = true → t.memoryWf = true)

theorem KeepsRest.rfl' (s : State) : KeepsRest s s :=
  ⟨⟨rfl, rfl, rfl, rfl, rfl, rfl, rfl, rfl, rfl⟩, id⟩

theorem KeepsRest.trans {s t u : State} (h : KeepsRest s t) (h' : KeepsRest t u) : KeepsRest s u := by
  obtain ⟨⟨nmi, cart, resetDone, inputs, scanline, dot, sprite0, ready, buffer⟩, wf⟩ := h
  obtain ⟨⟨nmi', cart', resetDone', inputs', scanline', dot', sprite0', ready', buffer'⟩, wf'⟩ := h'
  exact ⟨⟨nmi'.trans nmi, cart'.trans cart, resetDone'.trans resetDone, inputs'.trans inputs,
    scanline'.trans scanline, dot'.trans dot, sprite0'.trans sprite0, ready'.trans ready,
    buffer'.trans buffer⟩, wf' ∘ wf⟩

theorem KeepsRest.cart {s t : State} (h : KeepsRest s t) : t.cart = s.cart := by
  obtain ⟨⟨-, cart, -⟩, -⟩ := h
  exact cart

theorem KeepsRest.setOut {s t : State} (h : KeepsRest s t) (out : StepOutput) :
    KeepsRest s (t.setOut out) := h

theorem memoryWf_iff {s : State} : s.memoryWf = true ↔ Memory.wf Config.ramSize s.ram = true ∧
    Memory.wf Config.oamSize s.vtu.oam = true ∧ Memory.wf Config.vramSize s.vtu.vram = true := by
  simp only [State.memoryWf, Bool.and_eq_true, and_assoc]

theorem OnlyReads.keepsRest {s t : State} (h : OnlyReads s t) : KeepsRest s t := by
  refine ⟨⟨h.nmiPending, h.cart, h.resetDone, h.inputs, h.scanline, h.dot, h.sprite0, h.frameReady,
    h.frameBuffer⟩, fun wf => ?_⟩
  rw [memoryWf_iff] at wf ⊢
  rwa [h.ram, h.oam, h.vram]

theorem keepsRest_memWrite (a : Word) (v : Byte) (s : State) : KeepsRest s (memWrite a v s) := by
  refine ⟨⟨by simp, by simp, by simp, by simp, ?_⟩, fun wf => ?_⟩
  · cases backing : route a with
    | device r =>
      obtain ⟨scanline, dot, -, sprite0, ready, buffer, -⟩ := devWrite_keeps r v s.vtu
      rw [memWrite_device backing]
      exact ⟨scanline, dot, sprite0, ready, buffer⟩
    | ram k => rw [memWrite_ram backing]; exact ⟨rfl, rfl, rfl, rfl, rfl⟩
    | unmapped => rw [memWrite_unmapped backing]; exact ⟨rfl, rfl, rfl, rfl, rfl⟩
    | program k => rw [memWrite_program backing]; exact ⟨rfl, rfl, rfl, rfl, rfl⟩
  · obtain ⟨ram, oam, vram⟩ := memoryWf_iff.mp wf
    exact memoryWf_iff.mpr (memWrite_wf a v ram oam vram)

theorem keepsRest_writePlace (pl : Place) (v : Byte) (s : State) : KeepsRest s (writePlace pl v s) := by
  cases pl with
  | accumulator => exact KeepsRest.rfl' s
  | fetched d8 => exact KeepsRest.rfl' s
  | bus ea => exact keepsRest_memWrite ea v s

theorem keepsRest_push (v : Byte) (s : State) : KeepsRest s (push v s) := keepsRest_memWrite _ v s

theorem keepsRest_pushWord (w : Word) (s : State) : KeepsRest s (pushWord w s) :=
  (keepsRest_push _ s).trans (keepsRest_push _ _)

theorem keepsRest_pop (s : State) : KeepsRest s (pop s).2 := by
  rw [pop_snd]; exact KeepsRest.rfl' s

theorem keepsRest_pushFrame (kind : InterruptKind) (s : State) : KeepsRest s (pushFrame kind s) := by
  cases kind with
  | reset => exact KeepsRest.rfl' s
  | _ => exact (keepsRest_pushWord s.pc s).trans (keepsRest_push _ _)

/-- An entry, whatever pushes it makes. -/
theorem keepsRest_enter (kind : InterruptKind) (s : State) :
    KeepsRest s (enterVector kind (pushFrame kind s)) :=
  (keepsRest_pushFrame kind s).trans (enterVector_onlyReads kind (pushFrame kind s)).keepsRest

/-- An instruction keeps what its shape keeps: reads, at most one write, or the stack. -/
theorem keepsRest_exec {i : Instr} {s t : State} (next : exec i s = .next t) : KeepsRest s t := by
  unfold exec at next
  cases i
  case lda o | ldx o | ldy o | and o | ora o | eor o | bit o | adc o | sbc o | cmp o | cpx o | cpy o =>
    obtain ⟨out, rfl⟩ := next_of_runRead next
    exact (afterOperand_onlyReads o s).keepsRest
  case sta o | stx o | sty o =>
    obtain ⟨v, out, rfl⟩ := next_of_runStore next
    exact (resolve_onlyReads o s).keepsRest.trans (keepsRest_writePlace _ v _)
  case inc o | dec o | asl o | lsr o | rol o | ror o =>
    obtain ⟨v, out, rfl⟩ := next_of_runModify next
    exact (afterOperand_onlyReads o s).keepsRest.trans (keepsRest_writePlace _ v _)
  case jmp o =>
    obtain ⟨pc, out, rfl⟩ := next_of_jmp next
    exact (resolve_onlyReads o s).keepsRest
  case bcc d8 | bcs d8 | beq d8 | bne d8 | bmi d8 | bpl d8 | bvc d8 | bvs d8 =>
    obtain ⟨pc, out, rfl⟩ := next_of_runBranch next
    exact KeepsRest.rfl' s
  case brk =>
    obtain ⟨out, rfl⟩ := next_of_brk next
    have moved : KeepsRest s (s.setPc (s.pc + 1)) := KeepsRest.rfl' s
    exact (moved.trans (keepsRest_enter .softwareBreak _)).setOut out
  case rti =>
    obtain ⟨out, rfl⟩ := next_of_runImplicit next
    rw [returnFromInterrupt_eq]
    exact KeepsRest.rfl' s
  case pha | php =>
    obtain ⟨out, rfl⟩ := next_of_runImplicit next
    exact keepsRest_push _ s
  case pla | plp =>
    obtain ⟨out, rfl⟩ := next_of_runImplicit next
    exact keepsRest_pop s
  case jsr target =>
    obtain ⟨out, rfl⟩ := next_of_runImplicit next
    exact keepsRest_pushWord _ s
  case rts =>
    obtain ⟨out, rfl⟩ := next_of_runImplicit next
    simp only [popWord_eq]
    exact KeepsRest.rfl' s
  all_goals
    obtain ⟨out, rfl⟩ := next_of_runImplicit next
    exact KeepsRest.rfl' s

/-- Settles O41: what no instruction changes is what each shape keeps; `RAM` is written by the shapes
that store or push, the halt by the illegal instruction alone. -/
theorem otherStateWriters : Obligations.OtherStateWriters := by
  unfold Obligations.OtherStateWriters
  intro i s t next
  refine and_assoc.mp ⟨?_, (keepsRest_exec next).1⟩
  unfold exec at next
  cases i
  case lda o | ldx o | ldy o | and o | ora o | eor o | bit o | adc o | sbc o | cmp o | cpx o | cpy o =>
    obtain ⟨out, rfl⟩ := next_of_runRead next
    simp [State.setAdd]
  case sta o | stx o | sty o =>
    obtain ⟨v, out, rfl⟩ := next_of_runStore next
    simp [Instr.mnemonic]
  case inc o | dec o | asl o | lsr o | rol o | ror o =>
    obtain ⟨v, out, rfl⟩ := next_of_runModify next
    simp [Instr.mnemonic]
  case jmp o =>
    obtain ⟨pc, out, rfl⟩ := next_of_jmp next
    simp
  case bcc d8 | bcs d8 | beq d8 | bne d8 | bmi d8 | bpl d8 | bvc d8 | bvs d8 =>
    obtain ⟨pc, out, rfl⟩ := next_of_runBranch next
    simp
  case brk =>
    obtain ⟨ram, out, reads⟩ := brk_onlyReads next
    simp [reads.halted, reads.faultOpcode, Instr.mnemonic]
  all_goals
    obtain ⟨out, rfl⟩ := next_of_runImplicit next
    simp [Instr.mnemonic, push_eq, pushWord_eq, pop_snd, popWord_eq, returnFromInterrupt_eq]

end Sys2Proof.Machine
end

section
/-! PROOFS. PHP and PLP (41_transfer_stack.md R147, R149), and pushes of more than one byte. -/

namespace Sys2Proof.Machine

section Dispatch
variable (s : State)

theorem exec_php : exec .php s = runImplicit .php (fun t => push (pushedStatus t.p) t) s := rfl
theorem exec_plp : exec .plp s =
    runImplicit .plp (fun t => (pop t).2.setP (loadedStatus (pop t).1)) s := rfl

end Dispatch

/-- The status a popped byte gives: six of its bits, bit 5 one and bit 4 zero. -/
theorem statusIs_loadedStatus (v : Byte) : StatusIs (loadedStatus v) (v.getLsbD 7) (v.getLsbD 6) true
    false (v.getLsbD 3) (v.getLsbD 2) (v.getLsbD 1) (v.getLsbD 0) :=
  ⟨flagN_loadedStatus v, flagV_loadedStatus v, flagU_loadedStatus v, flagB_loadedStatus v,
    flagD_loadedStatus v, flagI_loadedStatus v, flagZ_loadedStatus v, flagC_loadedStatus v⟩

/-- Settles O19: PHP is a push of `P` with bits 5 and 4 set, PLP a pop whose byte is loaded into `P`. -/
theorem pushPullStatus : Obligations.PushPullStatus := by
  unfold Obligations.PushPullStatus
  intro s
  refine ⟨runs_of_runImplicit (exec_php s) (rows_of_listed .PHP (by decide)) fun out => ⟨?_, ?_, ?_⟩,
    runs_of_runImplicit (exec_plp s) (rows_of_listed .PLP (by decide)) fun out => ⟨?_, ?_, ?_⟩⟩
  · simp [Regs, push_eq]
  · simp [push_eq]
  · exact (pushesOnly_setOut out).mpr (push_pushesOnly (pushedStatus s.p) s)
  · simp [Regs, pop_snd]
  · simpa [pop_fst] using statusIs_loadedStatus (stackByte s (s.sp + 1))
  · simp [pop_snd]

/-! ## Several pushes -/

theorem stackAt_inj {a b : Byte} : stackAt a = stackAt b ↔ a = b := stackIndex_inj

/-- One more push, at a stack byte not yet stored to. -/
theorem PushesOnly.push {s t : State} {bytes : List (Nat × Byte)} (h : PushesOnly s t bytes)
    (fresh : ∀ c ∈ bytes, c.1 ≠ stackAt t.sp) (b : Byte) :
    PushesOnly s (push b t) (bytes ++ [(stackAt t.sp, b)]) := by
  obtain ⟨machine, ⟨vtu, draws⟩, stored, others⟩ := h
  obtain ⟨machine', ⟨vtu', draws'⟩, stored', others'⟩ := push_pushesOnly b t
  refine ⟨machine.trans machine', ⟨vtu'.trans vtu, draws'.trans draws⟩, fun c listed => ?_,
    fun i notListed => ?_⟩
  · rcases List.mem_append.mp listed with earlier | last
    · rw [others' c.1 (by simpa using fresh c earlier), stored c earlier]
    · exact stored' c last
  · simp only [List.mem_append, or_imp, forall_and] at notListed
    rw [others' i notListed.2, others i notListed.1]

theorem pushesOnly_pushWord (w : Word) (s : State) : PushesOnly s (pushWord w s)
    [(stackAt s.sp, hiByte w), (stackAt (s.sp - 1), loByte w)] := by
  have fresh : s.sp ≠ s.sp - 1 := by bv_omega
  have two := (push_pushesOnly (hiByte w) s).push (by simpa [push_sp, stackAt_inj] using fresh)
    (loByte w)
  rwa [push_sp] at two

theorem pushFrame_eq_push {kind : InterruptKind} (hk : kind ≠ .reset) (s : State) :
    pushFrame kind s = push (entryStatus kind s.p) (pushWord s.pc s) := by
  cases kind with
  | reset => exact absurd rfl hk
  | _ => rfl

theorem pushWord_sp (w : Word) (s : State) : (pushWord w s).sp = s.sp - 2 := by
  rw [pushWord_eq, setSp_sp]; bv_omega

theorem pushesOnly_pushFrame {kind : InterruptKind} (hk : kind ≠ .reset) (s : State) :
    PushesOnly s (pushFrame kind s) [(stackAt s.sp, hiByte s.pc), (stackAt (s.sp - 1), loByte s.pc),
      (stackAt (s.sp - 2), entryStatus kind s.p)] := by
  have fresh : s.sp ≠ s.sp - 2 ∧ s.sp - 1 ≠ s.sp - 2 := by constructor <;> bv_omega
  have three := (pushesOnly_pushWord s.pc s).push (by simpa [pushWord_sp, stackAt_inj] using fresh)
    (entryStatus kind s.p)
  rwa [pushWord_sp, ← pushFrame_eq_push hk] at three

end Sys2Proof.Machine
end

section
/-! PROOFS. Interrupt entries and the return from them (60_exceptions.md sections A2, A5,
49_system.md R235, R236). -/

namespace Sys2Proof.Machine

theorem statusIs_withI (p : Byte) (i : Bool) :
    StatusIs (withI p i) (flagN p) (flagV p) (flagU p) (flagB p) (flagD p) i (flagZ p) (flagC p) := by
  simp [StatusIs]

theorem vectorWord_nonMaskable (c : Cartridge) : vectorWord c .nonMaskable = programWord c 0xFFFA := rfl
theorem vectorWord_maskable (c : Cartridge) : vectorWord c .maskable = programWord c 0xFFFE := rfl
theorem vectorWord_softwareBreak (c : Cartridge) :
    vectorWord c .softwareBreak = programWord c 0xFFFE := rfl
theorem vectorWord_reset (c : Cartridge) : vectorWord c .reset = programWord c 0xFFFC := rfl

section Entry
variable {c : Cartridge} {s : State} {kind : InterruptKind}

/-- An entry after its pushes, with a cartridge, sets `P.I` and `PC` and no more. -/
theorem enter_eq (hc : s.cart = some c) : enterVector kind (pushFrame kind s) =
    ((pushFrame kind s).setP (withI (pushFrame kind s).p true)).setPc (vectorWord c kind) :=
  enterVector_eq kind ((keepsRest_pushFrame kind s).cart.trans hc)

theorem regs_enter (hc : s.cart = some c) (hk : kind ≠ .reset) :
    Regs (enterVector kind (pushFrame kind s)) s.a s.x s.y (s.sp - 3) (vectorWord c kind) := by
  have sp : s.sp - 1 - 1 - 1 = s.sp - 3 := by bv_omega
  rw [enter_eq hc, pushFrame_eq hk]
  exact ⟨rfl, rfl, rfl, sp, rfl⟩

theorem p_enter (hc : s.cart = some c) (hk : kind ≠ .reset) :
    (enterVector kind (pushFrame kind s)).p = withI s.p true := by
  rw [enter_eq hc, pushFrame_eq hk]
  rfl

theorem pushesOnly_enter (hc : s.cart = some c) (hk : kind ≠ .reset) :
    PushesOnly s (enterVector kind (pushFrame kind s)) [(stackAt s.sp, hiByte s.pc),
      (stackAt (s.sp - 1), loByte s.pc), (stackAt (s.sp - 2), entryStatus kind s.p)] := by
  rw [enter_eq hc]
  exact pushesOnly_pushFrame hk s

end Entry

/-- Settles O42: an entry is its pushes, `P.I` and the vector, for each of the three kinds that push. -/
theorem interruptEntry : Obligations.InterruptEntry := by
  unfold Obligations.InterruptEntry
  refine ⟨fun c s kind vec pushed hc listed unmasked => ?_,
    fun s masked => raiseInterrupt_masked masked⟩
  obtain ⟨hk, vector, status⟩ : kind ≠ .reset ∧ vectorWord c kind = programWord c vec ∧
      entryStatus kind s.p = pushed := by
    simp only [List.mem_cons, Prod.mk.injEq, List.not_mem_nil, or_false] at listed
    rcases listed with ⟨rfl, rfl, rfl⟩ | ⟨rfl, rfl, rfl⟩ | ⟨rfl, rfl, rfl⟩
    · exact ⟨by decide, vectorWord_nonMaskable c, rfl⟩
    · exact ⟨by decide, vectorWord_maskable c, rfl⟩
    · exact ⟨by decide, vectorWord_softwareBreak c, rfl⟩
  have taken : kind ≠ .maskable ∨ flagI s.p = false := Decidable.not_or_of_imp unmasked
  refine ⟨_, raiseInterrupt_taken taken, ?_, ?_, ?_⟩
  · rw [← vector]; exact regs_enter hc hk
  · rw [p_enter hc hk]; exact statusIs_withI s.p true
  · rw [← status]; exact pushesOnly_enter hc hk

/-! ## BRK and RTI -/

@[simp] theorem registersOnly_setPc {s t : State} (v : Word) :
    RegistersOnly s (t.setPc v) ↔ RegistersOnly s t := .rfl

section Dispatch
variable (s : State)

theorem exec_brk : exec .brk s = runImplicit .brk
    (fun t => (raiseInterrupt .softwareBreak (t.setPc (t.pc + 1))).2) s := rfl
theorem exec_rti : exec .rti s = runImplicit .rti returnFromInterrupt s := rfl

end Dispatch

/-- Settles O33: BRK is the SoftwareBreak entry with `PC` moved past the padding byte. -/
theorem breakEntry : Obligations.BreakEntry := by
  unfold Obligations.BreakEntry
  intro c s hc
  have kind : InterruptKind.softwareBreak ≠ .reset := by decide
  have hc' : (s.setPc (s.pc + 1)).cart = some c := hc
  have regs := regs_enter hc' kind
  have p := p_enter hc' kind
  have pushes := pushesOnly_enter hc' kind
  refine runs_of_runImplicit (exec_brk s) (rows_of_listed .BRK (by decide)) fun out => ?_
  rw [raiseInterrupt_taken (Or.inl (by decide))]
  generalize enterVector .softwareBreak (pushFrame .softwareBreak (s.setPc (s.pc + 1))) = t at *
  refine ⟨regs, ?_, pushes⟩
  rw [setOut_p, p]
  exact statusIs_withI s.p true

/-- Settles O34: RTI is a pop of the status followed by two of `PC`. -/
theorem returnFromInterruptRule : Obligations.ReturnFromInterruptRule := by
  unfold Obligations.ReturnFromInterruptRule
  intro s
  have sp2 : s.sp + 1 + 1 = s.sp + 2 := by bv_omega
  have sp3 : s.sp + 2 + 1 = s.sp + 3 := by bv_omega
  refine runs_of_runImplicit (exec_rti s) (rows_of_listed .RTI (by decide)) fun out => ?_
  rw [returnFromInterrupt_eq, sp2, sp3]
  exact ⟨⟨rfl, rfl, rfl, rfl, rfl⟩, statusIs_loadedStatus (stackByte s (s.sp + 1)), by simp⟩

end Sys2Proof.Machine
end

section
/-! PROOFS. JMP, JSR and RTS (46_jump_call.md R200 to R202). -/

namespace Sys2Proof.Machine

section Dispatch
variable (o : Operand) (target : Word) (s : State)

theorem exec_jmp : exec (.jmp o) s = runForm (.jmp o)
    (fun t => ⟨jumpTo (resolve o t).place (resolve o t).state, false, 0⟩) s := rfl
theorem exec_jsr : exec (.jsr target) s = runImplicit (.jsr target)
    (fun t => (pushWord (t.pc - 1) t).setPc target) s := rfl
theorem exec_rts : exec .rts s = runImplicit .rts
    (fun t => (popWord t).2.setPc ((popWord t).1 + 1)) s := rfl

end Dispatch

/-- Settles O29: JMP resolves its operand and moves `PC` there; JSR is two pushes and RTS two pops, each
followed by a write of `PC`. -/
theorem jumpsCallsReturns : Obligations.JumpsCallsReturns := by
  unfold Obligations.JumpsCallsReturns
  intro o target s
  refine ⟨runs_of_runForm (exec_jmp o s) (rows_of_listed .JMP (by decide))
      (fun f _ => by simp [flatCost]) (fun f listed mode out => ?_),
    runs_of_runImplicit (exec_jsr target s) (rows_of_listed .JSR (by decide)) fun out => ⟨?_, ?_, ?_⟩,
    runs_of_runImplicit (exec_rts s) (rows_of_listed .RTS (by decide)) fun out => ⟨?_, ?_, ?_, ?_⟩⟩
  · obtain ⟨notAccumulator, notImmediate⟩ :=
      (by decide : ∀ f ∈ formsJmp, f.mode ≠ .accumulator ∧ f.mode ≠ .immediate) f listed
    rw [mode] at notAccumulator notImmediate
    obtain ⟨ea, place⟩ := resolve_bus notAccumulator notImmediate s
    have reads := resolve_onlyReads o s
    rw [place]
    exact ⟨rfl, ⟨reads.a, reads.x, reads.y, reads.sp, rfl⟩, reads.p, reads.sameMachine, reads.sameRam,
      rfl, rfl⟩
  · simp [Regs, pushWord_eq]; bv_omega
  · simp [pushWord_eq]
  · exact pushesOnly_pushWord (s.pc - 1) s
  · simp [Regs, popWord_eq]; bv_omega
  · simp [popWord_eq]
  · simp [popWord_eq]
  · have sp2 : s.sp + 1 + 1 = s.sp + 2 := by bv_omega
    rw [setOut_pc, setPc_pc, popWord_eq, sp2, BitVec.toNat_add, mkWord_toNat]
    rfl

end Sys2Proof.Machine
end

section
/-! PROOFS. Pairs of instructions that restore what the first one saved (41_transfer_stack.md,
46_jump_call.md, 60_exceptions.md section A5), from what each does alone. -/

namespace Sys2Proof.Machine

/-- An instruction that completes in a listed form answers a next state of which `post` holds. -/
theorem Runs.next {i : Instr} {f : Form} {more : Form → Nat} {s : State} {post : State → Prop}
    (h : Runs i [f] more s post) (mode : f.mode = i.mode) : ∃ t, exec i s = .next t ∧ post t := by
  obtain ⟨-, -, t, next, -, holds⟩ := h f (List.mem_singleton.mpr rfl) mode
  exact ⟨t, next, holds⟩

theorem PushesOnly.stackByte {s t : State} {bytes : List (Nat × Byte)} (h : PushesOnly s t bytes)
    {sp b : Byte} (listed : (stackAt sp, b) ∈ bytes) : stackByte t sp = b := by
  obtain ⟨-, -, stored, -⟩ := h
  exact stored _ listed

/-- The status loaded from a byte that holds the flags of `p` is `p`, its bits 5 and 4 being as they
always are. -/
theorem eq_of_statusIs_loaded {p q v : Byte} (ok : statusOk p = true)
    (loaded : StatusIs q (v.getLsbD 7) (v.getLsbD 6) true false (v.getLsbD 3) (v.getLsbD 2)
      (v.getLsbD 1) (v.getLsbD 0)) (saved : v = p ∨ v = p ||| 0x30) : q = p := by
  obtain ⟨u, b⟩ : flagU p = true ∧ flagB p = false := by simpa [statusOk] using ok
  obtain ⟨hN, hV, hU, hB, hD, hI, hZ, hC⟩ := loaded
  rcases saved with rfl | rfl
  · exact status_ext hN hV (hU.trans u.symm) (hB.trans b.symm) hD hI hZ hC
  · exact status_ext (hN.trans (flagN_pushedStatus p)) (hV.trans (flagV_pushedStatus p))
      (hU.trans u.symm) (hB.trans b.symm) (hD.trans (flagD_pushedStatus p))
      (hI.trans (flagI_pushedStatus p)) (hZ.trans (flagZ_pushedStatus p))
      (hC.trans (flagC_pushedStatus p))

/-- Settles O20: in each pair the second reads the stack bytes the first stored. -/
theorem stackPairsRestore : Obligations.StackPairsRestore := by
  unfold Obligations.StackPairsRestore
  intro s
  have back : s.sp - 1 + 1 = s.sp := BitVec.sub_add_cancel ..
  refine ⟨?_, fun ok => ?_, fun target => ?_⟩
  · obtain ⟨runsPha, -⟩ := accumulatorOnStack s
    obtain ⟨t, pha, ⟨-, -, -, sp, -⟩, -, pushes⟩ := runsPha.next rfl
    obtain ⟨-, runsPla⟩ := accumulatorOnStack t
    obtain ⟨u, pla, ⟨a', -, -, sp', -⟩, -, -⟩ := runsPla.next rfl
    rw [sp, back] at a' sp'
    exact ⟨t, u, pha, pla, a'.trans (pushes.stackByte (List.mem_singleton.mpr rfl)), sp'⟩
  · obtain ⟨runsPhp, -⟩ := pushPullStatus s
    obtain ⟨t, php, ⟨-, -, -, sp, -⟩, -, pushes⟩ := runsPhp.next rfl
    obtain ⟨-, runsPlp⟩ := pushPullStatus t
    obtain ⟨u, plp, ⟨-, -, -, sp', -⟩, status, -⟩ := runsPlp.next rfl
    rw [sp, back] at status sp'
    have saved := pushes.stackByte (List.mem_singleton.mpr rfl)
    exact ⟨t, u, php, plp, eq_of_statusIs_loaded ok status (Or.inr saved), sp'⟩
  · obtain ⟨-, runsJsr, -⟩ := jumpsCallsReturns .accumulator target s
    obtain ⟨t, jsr, ⟨-, -, -, sp, pc⟩, -, pushes⟩ := runsJsr.next rfl
    refine ⟨t, jsr, pc, fun u sameSp sameStack => ?_⟩
    obtain ⟨-, -, runsRts⟩ := jumpsCallsReturns .accumulator target u
    obtain ⟨v, rts, ⟨-, -, -, sp', -⟩, -, -, pc'⟩ := runsRts.next rfl
    have high : s.sp - 2 + 2 = s.sp := BitVec.sub_add_cancel ..
    have low : s.sp - 2 + 1 = s.sp - 1 := by bv_omega
    rw [sameSp, sp, high] at sp' pc'
    rw [low, sameStack, sameStack, pushes.stackByte (List.mem_cons_self ..),
      pushes.stackByte (List.mem_cons_of_mem _ (List.mem_cons_self ..)), hiByte_toNat,
      loByte_toNat] at pc'
    exact ⟨v, rts, by bv_omega, sp'⟩

/-- Settles O43: RTI pops the three bytes that the entry pushed. -/
theorem returnUndoesEntry : Obligations.ReturnUndoesEntry := by
  unfold Obligations.ReturnUndoesEntry
  intro c s kind hc ok hk unmasked
  have taken : kind ≠ .maskable ∨ flagI s.p = false := Decidable.not_or_of_imp unmasked
  rw [raiseInterrupt_taken taken]
  obtain ⟨a, x, y, sp, -⟩ := regs_enter hc hk
  have pushes := pushesOnly_enter hc hk
  obtain ⟨t, rti, ⟨a', x', y', sp', pc'⟩, status, -⟩ :=
    (returnFromInterruptRule (enterVector kind (pushFrame kind s))).next rfl
  have sp1 : s.sp - 3 + 1 = s.sp - 2 := by bv_omega
  have sp2 : s.sp - 3 + 2 = s.sp - 1 := by bv_omega
  have sp3 : s.sp - 3 + 3 = s.sp := BitVec.sub_add_cancel ..
  rw [sp, sp3] at sp'
  rw [sp, sp2, sp3, pushes.stackByte (by simp : (stackAt s.sp, hiByte s.pc) ∈ _),
    pushes.stackByte (by simp : (stackAt (s.sp - 1), loByte s.pc) ∈ _), mkWord_hiByte_loByte] at pc'
  rw [sp, sp1] at status
  have saved : stackByte (enterVector kind (pushFrame kind s)) (s.sp - 2) = entryStatus kind s.p :=
    pushes.stackByte (by simp)
  refine ⟨t, rti, ⟨a'.trans a, x'.trans x, y'.trans y, sp', pc'⟩, eq_of_statusIs_loaded ok status ?_⟩
  rw [saved]
  cases kind with
  | softwareBreak => exact Or.inr rfl
  | _ => exact Or.inl rfl

end Sys2Proof.Machine
end

section
/-! PROOFS. SBC and the compares (43_arithmetic.md R166 to R169). -/

namespace Sys2Proof.Machine

/-! ## SBC: the addition of the one's complement as a subtraction -/

theorem onesComplement_toNat (m : Byte) : (m ^^^ 0xFF).toNat = 255 - m.toNat := by
  have complement : m ^^^ 0xFF = ~~~m := BitVec.xor_allOnes
  rw [complement, BitVec.toNat_not]

theorem onesComplement_toInt (m : Byte) : (m ^^^ 0xFF).toInt = -1 - m.toInt := by
  have := m.isLt
  rw [byte_toInt_eq, byte_toInt_eq, onesComplement_toNat]
  split <;> split <;> omega

theorem exec_sbc (o : Operand) (s : State) : exec (.sbc o) s = runRead (.sbc o) o
    (fun m t => t.setAdd (addWithCarry t.a (m ^^^ 0xFF) (flagC t.p))) s := rfl

/-- Settles O24: the sum with the one's complement is the difference less the borrow, unsigned and
signed. -/
theorem subtractWithBorrow : Obligations.SubtractWithBorrow := by
  unfold Obligations.SubtractWithBorrow
  intro o s
  refine runs_of_runRead_setAdd (addend := (· ^^^ 0xFF)) (exec_sbc o s)
    (rows_of_listed .SBC (by decide)) fun t regs status reads => ?_
  have result : t.a = (addWithCarry s.a (operandByte o s ^^^ 0xFF) (flagC s.p)).r := regs.1
  generalize operandByte o s = m at *
  have carry : (flagC s.p).toNat ≤ 1 := (flagC s.p).toNat_le
  have inByte := m.isLt
  have overflow : (addWithCarry s.a (m ^^^ 0xFF) (flagC s.p)).v = decide
      (s.a.toInt - m.toInt - (1 - (flagC s.p).toNat : Nat) < -128 ∨
        127 < s.a.toInt - m.toInt - (1 - (flagC s.p).toNat : Nat)) := by
    rw [addWithCarry_v_eq_decide_toInt, onesComplement_toInt, decide_eq_decide]
    omega
  have noBorrow : (addWithCarry s.a (m ^^^ 0xFF) (flagC s.p)).c =
      decide (m.toNat + (1 - (flagC s.p).toNat) ≤ s.a.toNat) := by
    rw [addWithCarry_c, onesComplement_toNat, decide_eq_decide]
    omega
  dsimp only at status ⊢
  rw [addWithCarry_n, addWithCarry_z, overflow, noBorrow, ← result] at status
  refine ⟨?_, result ▸ regs, status, reads⟩
  rw [result, addWithCarry_r_toNat, onesComplement_toNat]
  omega

/-! ## The compares -/

/-- The status a compare leaves, flag by flag: the difference is zero for equal bytes only. -/
theorem statusIs_statusCompare (p r m : Byte) : StatusIs (statusCompare p r m) ((r - m).getLsbD 7)
    (flagV p) (flagU p) (flagB p) (flagD p) (flagI p) (decide (r = m)) (decide (m.toNat ≤ r.toNat)) := by
  have equal : r - m = 0#8 ↔ r = m := sub_eq_zero
  simp [StatusIs, beq_eq_decide, equal]

/-- An instruction that compares a register, which the operand's reads leave as it was, with its operand
byte completes in each listed form with the flags of the compare and nothing else changed. -/
theorem runs_of_runRead_compare {i : Instr} {forms : List Form} {o : Operand} {s : State}
    (register : State → Byte)
    (run : exec i s = runRead i o (fun m t => t.setP (statusCompare t.p (register t) m)) s)
    (rows : forms.all (Form.isRowOf i.mnemonic) = true)
    (kept : register (afterOperand o s) = register s) :
    Runs i forms (crossCost o s) s (fun t =>
      Regs t s.a s.x s.y s.sp s.pc ∧
        StatusIs t.p ((register s - operandByte o s).getLsbD 7) (flagV s.p) (flagU s.p) (flagB s.p)
          (flagD s.p) (flagI s.p) (decide (register s = operandByte o s))
          (decide ((operandByte o s).toNat ≤ (register s).toNat)) ∧ ReadsOperand o s t) := by
  refine runs_of_runRead run rows fun out => ⟨?_, ?_, .of_registersOnly ?_⟩
  · simp [Regs]
  · simpa [kept] using statusIs_statusCompare s.p (register s) (operandByte o s)
  · simp

section Dispatch
variable (o : Operand) (s : State)

theorem exec_cmp : exec (.cmp o) s =
    runRead (.cmp o) o (fun m t => t.setP (statusCompare t.p t.a m)) s := rfl
theorem exec_cpx : exec (.cpx o) s =
    runRead (.cpx o) o (fun m t => t.setP (statusCompare t.p t.x m)) s := rfl
theorem exec_cpy : exec (.cpy o) s =
    runRead (.cpy o) o (fun m t => t.setP (statusCompare t.p t.y m)) s := rfl

end Dispatch

/-- Settles O25: the three are one compare, with `A`, `X` or `Y`. -/
theorem compares : Obligations.Compares := by
  unfold Obligations.Compares
  intro o s
  exact ⟨runs_of_runRead_compare State.a (exec_cmp o s) (rows_of_listed .CMP (by decide))
      (afterOperand_a o s),
    runs_of_runRead_compare State.x (exec_cpx o s) (rows_of_listed .CPX (by decide))
      (afterOperand_x o s),
    runs_of_runRead_compare State.y (exec_cpy o s) (rows_of_listed .CPY (by decide))
      (afterOperand_y o s)⟩

end Sys2Proof.Machine
end

section
/-! PROOFS. The eight branches (47_branch.md R210 to R218) as one. -/

namespace Sys2Proof.Machine

/-- Pages are compared by the high bytes. -/
theorem pageCrossed_eq_otherPage (a b : Word) : pageCrossed a b = otherPage a b := by
  rw [pageCrossed, otherPage, bne, beq_eq_decide, ← decide_not, decide_eq_decide, not_iff_not,
    ← BitVec.toNat_inj, hiByte_toNat, hiByte_toNat]

theorem sext16_toNat (d8 : Byte) :
    (sext16 d8).toNat = d8.toNat + if 128 ≤ d8.toNat then 65280 else 0 := by
  have := d8.isLt
  rw [sext16, BitVec.toNat_signExtend, BitVec.toNat_setWidth, BitVec.msb_eq_decide,
    Nat.mod_eq_of_lt (by omega)]
  simp

/-- The target of a branch is its signed offset from the next instruction, modulo 65536. -/
theorem branchTarget_toNat (pc : Word) (d8 : Byte) :
    ((pc + sext16 d8).toNat : Int) = ((pc.toNat : Int) + d8.toInt) % 65536 := by
  rw [BitVec.toNat_add, sext16_toNat, byte_toInt_eq]
  split <;> omega

/-- A branch completes at 2 cycles with `PC` as before, or, where its condition holds, at 3, 4 to
another page, with `PC` at its target; nothing else changes. -/
theorem runs_of_runBranch {i : Instr} {op d8 : Byte} {cond : Byte → Bool} {s : State}
    (run : exec i s = runBranch i cond d8 s)
    (rows : [(⟨.relative, op, 2, 2, false⟩ : Form)].all (Form.isRowOf i.mnemonic) = true) :
    ∃ target : Word, (target.toNat : Int) = ((s.pc.toNat : Int) + d8.toInt) % 65536 ∧
      Runs i [⟨.relative, op, 2, 2, false⟩]
        (fun _ => if cond s.p then (if otherPage target s.pc then 2 else 1) else 0) s (fun t =>
          Regs t s.a s.x s.y s.sp (if cond s.p then target else s.pc) ∧ t.p = s.p ∧
            RegistersOnly s t) := by
  refine ⟨s.pc + sext16 d8, branchTarget_toNat s.pc d8,
    runs_of_runForm run rows (fun f listed => ?_) (fun f _ _ out => ?_)⟩
  · obtain rfl := List.mem_singleton.mp listed
    simp only [pageCrossed_eq_otherPage]
    cases cond s.p
    · simp
    · cases otherPage (s.pc + sext16 d8) s.pc <;> simp
  · cases cond s.p
    · simp [Regs]
    · simp [Regs]

section Dispatch
variable (d8 : Byte) (s : State)

theorem exec_bcc : exec (.bcc d8) s = runBranch (.bcc d8) (fun p => !flagC p) d8 s := rfl
theorem exec_bcs : exec (.bcs d8) s = runBranch (.bcs d8) (fun p => flagC p) d8 s := rfl
theorem exec_beq : exec (.beq d8) s = runBranch (.beq d8) (fun p => flagZ p) d8 s := rfl
theorem exec_bne : exec (.bne d8) s = runBranch (.bne d8) (fun p => !flagZ p) d8 s := rfl
theorem exec_bmi : exec (.bmi d8) s = runBranch (.bmi d8) (fun p => flagN p) d8 s := rfl
theorem exec_bpl : exec (.bpl d8) s = runBranch (.bpl d8) (fun p => !flagN p) d8 s := rfl
theorem exec_bvc : exec (.bvc d8) s = runBranch (.bvc d8) (fun p => !flagV p) d8 s := rfl
theorem exec_bvs : exec (.bvs d8) s = runBranch (.bvs d8) (fun p => flagV p) d8 s := rfl

end Dispatch

/-- Settles O30: each is the branch at its flag. -/
theorem branches : Obligations.Branches := by
  unfold Obligations.Branches
  intro d8 s
  exact ⟨runs_of_runBranch (exec_bcc d8 s) (rows_of_listed .BCC (by decide)),
    runs_of_runBranch (exec_bcs d8 s) (rows_of_listed .BCS (by decide)),
    runs_of_runBranch (exec_beq d8 s) (rows_of_listed .BEQ (by decide)),
    runs_of_runBranch (exec_bne d8 s) (rows_of_listed .BNE (by decide)),
    runs_of_runBranch (exec_bmi d8 s) (rows_of_listed .BMI (by decide)),
    runs_of_runBranch (exec_bpl d8 s) (rows_of_listed .BPL (by decide)),
    runs_of_runBranch (exec_bvc d8 s) (rows_of_listed .BVC (by decide)),
    runs_of_runBranch (exec_bvs d8 s) (rows_of_listed .BVS (by decide))⟩

end Sys2Proof.Machine
end

section
/-! PROOFS. CLI, SEI, CLD, SED (48_flags.md R227, R228, R230, R231), and the illegal opcode
(49_system.md R238). -/

namespace Sys2Proof.Machine

theorem statusIs_withD (p : Byte) (d : Bool) :
    StatusIs (withD p d) (flagN p) (flagV p) (flagU p) (flagB p) d (flagI p) (flagZ p) (flagC p) := by
  simp [StatusIs]

section Dispatch
variable (s : State)

theorem exec_cli : exec .cli s = runImplicit .cli (fun t => t.setP (withI t.p false)) s := rfl
theorem exec_sei : exec .sei s = runImplicit .sei (fun t => t.setP (withI t.p true)) s := rfl
theorem exec_cld : exec .cld s = runImplicit .cld (fun t => t.setP (withD t.p false)) s := rfl
theorem exec_sed : exec .sed s = runImplicit .sed (fun t => t.setP (withD t.p true)) s := rfl

end Dispatch

/-- Settles O32: each is one write of the status byte, in which one bit is set to a constant. -/
theorem interruptDecimalFlags : Obligations.InterruptDecimalFlags := by
  unfold Obligations.InterruptDecimalFlags
  intro s
  exact ⟨runs_of_runImplicit_setP (withI · false) (exec_cli s) (rows_of_listed .CLI (by decide))
      (statusIs_withI s.p false),
    runs_of_runImplicit_setP (withI · true) (exec_sei s) (rows_of_listed .SEI (by decide))
      (statusIs_withI s.p true),
    runs_of_runImplicit_setP (withD · false) (exec_cld s) (rows_of_listed .CLD (by decide))
      (statusIs_withD s.p false),
    runs_of_runImplicit_setP (withD · true) (exec_sed s) (rows_of_listed .SED (by decide))
      (statusIs_withD s.p true)⟩

/-! ## The illegal opcode -/

theorem exec_ill (op : Byte) (s : State) :
    exec (.ill op) s = runImplicit (.ill op) (fun t => t.halt op) s := rfl

/-- A halted machine answers the fault, whatever the host does at the boundary. -/
theorem step_halted {s : State} (h : s.halted = true) :
    step s = .fault (.unknownOpcode s.faultOpcode) := by
  have h' : (s.setInputs s.inputs.tail).halted = true := h
  rw [step, nextBoundary_state, hostActs_halted h', machineStep_halted h', setInputs_faultOpcode]

/-- Settles O36: the illegal row costs nothing, its effect is the halt, and a halted machine neither
steps nor accepts a host action. -/
theorem illegalOpcodeHalts : Obligations.IllegalOpcodeHalts := by
  unfold Obligations.IllegalOpcodeHalts
  intro op s illegal
  obtain ⟨-, -, rows⟩ := tableExceptions
  have row : tableEntry op = ⟨op, .ILL, .implicit, 0, false, false⟩ := (rows op).1 illegal
  have entry : (Instr.ill op).entry = some (tableEntry op) := by simp [Instr.entry, row]
  refine ⟨?_, _, (exec_ill op s).trans (runForm_eq entry _ s), ?_, step_halted rfl, hostAct_halted rfl⟩
  · rw [encode_eq_cons entry, tableEntry_opcode]; rfl
  · rw [row]; rfl

end Sys2Proof.Machine
end

section
/-! PROOFS. The cycle cost of every instruction (30_encoding.md R107). -/

namespace Sys2Proof.Machine

/-- What a meaning outputs. -/
theorem out_of_runForm {i : Instr} {e : TableEntry} {body : State → Effect} {s t : State}
    (entry : i.entry = some e) (next : runForm i body s = .next t) :
    t.out = ⟨instrCycles e (body s).crossed (body s).extra, some e.opcode⟩ := by
  rw [runForm_eq entry] at next
  obtain rfl := Host.Outcome.next.inj next
  rfl

section Out
variable {i : Instr} {e : TableEntry} {o : Operand} {s t : State} (entry : i.entry = some e)
include entry

theorem out_of_runImplicit {g : State → State} (next : runImplicit i g s = .next t) :
    t.out = ⟨instrCycles e false 0, some e.opcode⟩ := out_of_runForm entry next

theorem out_of_runRead {f : Byte → State → State} (next : runRead i o f s = .next t) :
    t.out = ⟨instrCycles e (resolve o s).crossed 0, some e.opcode⟩ := out_of_runForm entry next

theorem out_of_runStore {value : State → Byte} (next : runStore i o value s = .next t) :
    t.out = ⟨instrCycles e (resolve o s).crossed 0, some e.opcode⟩ := out_of_runForm entry next

theorem out_of_runModify {f : Byte → Byte → Byte × Byte} (next : runModify i o f s = .next t) :
    t.out = ⟨instrCycles e (resolve o s).crossed 0, some e.opcode⟩ := out_of_runForm entry next

/-- What a branch outputs, by its condition. -/
theorem out_of_runBranch {cond : Byte → Bool} {d8 : Byte} (relative : e.mode = .relative)
    (next : runBranch i cond d8 s = .next t) :
    t.out = ⟨e.baseCycles + if cond s.p then
      (if e.branchPenalty then 1 + (if otherPage (s.pc + sext16 d8) s.pc then 1 else 0) else 0) else 0,
      some e.opcode⟩ := by
  obtain ⟨row, -, -⟩ := entry_spec entry
  obtain ⟨branch, page⟩ := tableEntry_relative e.opcode (by rwa [row])
  rw [row] at branch page
  rw [out_of_runForm entry next, instrCycles, page, branch, ← pageCrossed_eq_otherPage]
  cases cond s.p
  · rfl
  · simp

end Out

/-- Neither form of JMP computes an address that can cross a page. -/
theorem crossed_of_jmp_form {o : Operand} (form : o.mode ∈ formsOf .JMP) (s : State) :
    (resolve o s).crossed = false := by
  cases o with
  | absolute w => rfl
  | indirect w => rfl
  | _ => simp [Operand.mode, formsOf] at form

/-- Settles O38: by the shape of each meaning, which outputs the cost of its row with the crossing of
its operand, or with the extra cycles of a branch. -/
theorem cycleCost : Obligations.CycleCost := by
  unfold Obligations.CycleCost
  intro i e s t entry next
  obtain ⟨row, mnemonic, mode⟩ := entry_spec entry
  unfold exec at next
  cases i
  case lda o | ldx o | ldy o | and o | ora o | eor o | bit o | adc o | sbc o | cmp o | cpx o | cpy o =>
    rw [out_of_runRead entry next]
    exact ⟨rfl, rfl⟩
  case sta o | stx o | sty o =>
    rw [out_of_runStore entry next]
    exact ⟨rfl, rfl⟩
  case inc o | dec o | asl o | lsr o | rol o | ror o =>
    rw [out_of_runModify entry next]
    exact ⟨rfl, rfl⟩
  case bcc d8 | bcs d8 | beq d8 | bne d8 | bmi d8 | bpl d8 | bvc d8 | bvs d8 =>
    rw [out_of_runBranch entry mode next]
    refine ⟨rfl, ?_⟩
    simp only [operandOfInstr, branchOf, Nat.add_zero]
    split <;> simp_all
  case jmp o =>
    have form : o.mode ∈ formsOf .JMP := (Instr.wf_iff.mp (Instr.wf_of_entry entry)).1
    rw [out_of_runForm entry (next : runForm _ _ _ = _)]
    simp [operandOfInstr, branchOf, instrCycles, crossed_of_jmp_form form]
  all_goals
    rw [out_of_runImplicit entry next]
    simp [operandOfInstr, branchOf, instrCycles]

end Sys2Proof.Machine
end

section
/-! PROOFS. The windows of the processor address space (20_memory.md sections 3, 6). -/

namespace Sys2Proof.Machine

/-! ## What a read answers in each window -/

theorem memRead_ram_eq {a : Word} {i : Nat} (h : route a = .ram i) (s : State) :
    memRead a s = (Memory.read s.ram i, s) := by simp only [memRead, h]

theorem memRead_device {a : Word} {r : DevReg} (h : route a = .device r) (s : State) :
    memRead a s = devRead r s := by simp only [memRead, h]

theorem memRead_unmapped {a : Word} (h : route a = .unmapped) (s : State) :
    memRead a s = openBusRead a s := by simp only [memRead, h]

/-- Settles O8: `RAM` is routed modulo its size, and program data modulo the length of `PRG`. -/
theorem backedWindows : Obligations.BackedWindows := by
  unfold Obligations.BackedWindows
  refine ⟨fun a b v s inRam inRam' => ?_, fun a c s hc inProgram => ?_⟩
  · have read := memRead_ram_eq (route_ram inRam')
    rw [memWrite_ram (route_ram inRam)]
    refine ⟨read s, ?_, ⟨rfl, rfl, rfl, rfl, rfl, rfl⟩, ⟨rfl, rfl⟩, ⟨rfl, rfl, rfl, rfl, rfl⟩, rfl⟩
    rw [read, read, setRam_ram, Memory.read_write]
    simp only [eq_comm]
  · refine ⟨memRead_program inProgram hc, fun oneBank inFirst => ?_⟩
    have above : (a + 0x4000).toNat = a.toNat + 0x4000 := by bv_omega
    rw [memRead_program (by omega) hc, memRead_program inProgram hc, prgByte, prgByte, above, oneBank,
      show a.toNat + 0x4000 - 0x8000 = a.toNat - 0x8000 + 0x4000 by omega, Nat.add_mod_right]

/-! ## The device window -/

/-- Device registers are routed by the address modulo 8. -/
theorem devRegOf_mod {m n : Nat} (h : m % 8 = n % 8) : devRegOf m = devRegOf n := by
  rw [devRegOf, devRegOf, h]

theorem route_devRegOf {a : Word} (h : 0x2000 ≤ a.toNat) (h' : a.toNat ≤ 0x3FFF) :
    route a = .device (devRegOf a.toNat) := by
  rw [route_device h h', devRegOf_mod (by omega : (a.toNat - 0x2000) % 8 = a.toNat % 8)]

/-- Settles O10: a mirror has the same device register behind it; nothing is behind the unmapped
window. -/
theorem deviceAndUnmappedWindows : Obligations.DeviceAndUnmappedWindows := by
  unfold Obligations.DeviceAndUnmappedWindows
  refine fun a v s => ⟨fun above below r isReg mod => ?_, fun above below => ?_⟩
  · have canonical : ((0x2000 : Word) + BitVec.ofNat 16 r).toNat = 0x2000 + r := by bv_omega
    have same : route (0x2000 + BitVec.ofNat 16 r) = .device (devRegOf a.toNat) := by
      rw [route_devRegOf (by omega) (by omega), canonical,
        devRegOf_mod (by omega : (0x2000 + r) % 8 = a.toNat % 8)]
    have backing := route_devRegOf above below
    rw [memRead_device backing, memRead_device same, memWrite_device backing, memWrite_device same]
    exact ⟨rfl, rfl⟩
  · have backing := route_unmapped above below
    rw [memRead_unmapped backing]
    exact ⟨memWrite_unmapped backing v s, rfl⟩

/-! ## What reads can change -/

theorem not_strange {a : Word} (h : strange a = false) : a.toNat ≤ 0x1FFF ∨ 0x8000 ≤ a.toNat := by
  simp only [strange, Bool.and_eq_false_iff, decide_eq_false_iff_not] at h
  omega

/-- Settles O11: reads are `OnlyReads`; in `RAM` and, with a cartridge, in program data they are
plain. -/
theorem busReadFrame : Obligations.BusReadFrame := by
  unfold Obligations.BusReadFrame
  refine fun s => ⟨fun a => memRead_onlyReads a s, fun o => afterOperand_onlyReads o s,
    fun a c hc plain => ?_⟩
  rcases not_strange plain with inRam | inProgram
  · rw [memRead_ram_eq (route_ram inRam)]
  · rw [memRead_program inProgram hc]

end Sys2Proof.Machine
end

section
/-! PROOFS. The addressing modes (30_encoding.md R94 to R104). -/

namespace Sys2Proof.Machine

theorem resolve_absoluteX (w : Word) (s : State) : resolve (.absoluteX w) s =
    ⟨.bus (w + zext16 s.x), otherPage (w + zext16 s.x) w, s⟩ := by
  rw [resolve, pageCrossed_eq_otherPage]

theorem resolve_absoluteY (w : Word) (s : State) : resolve (.absoluteY w) s =
    ⟨.bus (w + zext16 s.y), otherPage (w + zext16 s.y) w, s⟩ := by
  rw [resolve, pageCrossed_eq_otherPage]

/-- An index is added modulo 65536. -/
theorem add_zext16_toNat (w : Word) (b : Byte) :
    (w + zext16 b).toNat = (w.toNat + b.toNat) % 65536 := by
  rw [BitVec.toNat_add, zext16_toNat]

/-- Settles O12: the direct modes compute their address from the operand bytes and an index alone. -/
theorem directAddresses : Obligations.DirectAddresses := by
  unfold Obligations.DirectAddresses
  intro d8 lo hi s
  have bytes : [loByte (mkWord hi lo), hiByte (mkWord hi lo)] = [lo, hi] := by simp
  refine ⟨⟨rfl, rfl, rfl⟩, ⟨rfl, rfl, rfl⟩, fun o notAccumulator notImmediate => ?_, rfl,
    ⟨_, rfl, zext16_toNat d8⟩, mkWord hi lo, mkWord_toNat hi lo, bytes, bytes, bytes, ⟨_, rfl, rfl⟩,
    ⟨_, resolve_absoluteX _ s, add_zext16_toNat _ _⟩, ⟨_, resolve_absoluteY _ s, add_zext16_toNat _ _⟩⟩
  obtain ⟨ea, place⟩ := resolve_bus notAccumulator notImmediate s
  exact ⟨ea, place, by rw [operandByte, place]; rfl, by rw [afterOperand, place]; rfl⟩

/-- Both bytes of a pointer in page 0 are read from `RAM`, and the reads change nothing. -/
theorem readPointer_zeroPage (lo hi : Byte) (s : State) : readPointer (zext16 lo) (zext16 hi) s =
    (mkWord (Memory.read s.ram hi.toNat) (Memory.read s.ram lo.toNat), s) := by
  have backing : ∀ b : Byte, route (zext16 b) = .ram b.toNat := fun b => by
    have := b.isLt
    rw [route_ram (by rw [zext16_toNat]; omega), zext16_toNat, Nat.mod_eq_of_lt (by omega)]
  rw [readPointer, memRead_ram_eq (backing lo), memRead_ram_eq (backing hi)]

theorem resolve_indirectX (d8 : Byte) (s : State) : resolve (.indirectX d8) s =
    ⟨.bus (mkWord (Memory.read s.ram (d8 + s.x + 1).toNat) (Memory.read s.ram (d8 + s.x).toNat)),
      false, s⟩ := by
  rw [resolve, readPointer_zeroPage]

/-- The base address of IndirectY. -/
def indirectBase (d8 : Byte) (s : State) : Word :=
  mkWord (Memory.read s.ram (d8 + 1).toNat) (Memory.read s.ram d8.toNat)

theorem resolve_indirectY (d8 : Byte) (s : State) : resolve (.indirectY d8) s =
    ⟨.bus (indirectBase d8 s + zext16 s.y),
      otherPage (indirectBase d8 s + zext16 s.y) (indirectBase d8 s), s⟩ := by
  rw [resolve, readPointer_zeroPage, pageCrossed_eq_otherPage, indirectBase]

/-- Settles O13: an index or a pointer's second byte in page 0 wraps as a byte does, and Indirect's
second byte is at its page and the low byte plus one. -/
theorem wrappedPointers : Obligations.WrappedPointers := by
  unfold Obligations.WrappedPointers
  intro d8 w s
  refine ⟨⟨_, rfl, ?_⟩, ⟨_, rfl, ?_⟩, ⟨_, resolve_indirectX d8 s, ?_⟩,
    ⟨indirectBase d8 s, _, resolve_indirectY d8 s, ?_, add_zext16_toNat _ _⟩,
    mkWord (hiByte w) (loByte w + 1), _, ?_, rfl, mkWord_toNat ..⟩
  · rw [zext16_toNat, BitVec.toNat_add]
  · rw [zext16_toNat, BitVec.toNat_add]
  · rw [mkWord_toNat, BitVec.toNat_add, BitVec.toNat_add]; simp
  · rw [indirectBase, mkWord_toNat, BitVec.toNat_add]; rfl
  · rw [mkWord_toNat, BitVec.toNat_add, hiByte_toNat, loByte_toNat]; simp

end Sys2Proof.Machine
end

section
/-! PROOFS. The fetch of one instruction (30_encoding.md section 2, 20_memory.md sections 6, 7). -/

namespace Sys2Proof.Machine

theorem fetch8_eq (s : State) :
    fetch8 s = ((memRead s.pc s).1, (memRead s.pc s).2.setPc (s.pc + 1)) := by
  rw [fetch8, memRead_pc]

/-- A fetch at `w` in a state whose `PC` was moved there. -/
theorem fetch8_setPc (w : Word) (s : State) :
    fetch8 (s.setPc w) = ((memRead w s).1, (memRead w s).2.setPc (w + 1)) := by
  rw [fetch8_eq, setPc_pc, memRead_setPc]; rfl

/-- The bytes of a fetch, and the state after it, by how many there are. -/
theorem fetchBytes_eq (s : State) :
    let r0 := memRead s.pc s
    let r1 := memRead (s.pc + 1) r0.2
    let r2 := memRead (s.pc + 2) r1.2
    fetchBytes s = ([r0.1], r0.2.setPc (s.pc + 1)) ∨
      fetchBytes s = ([r0.1, r1.1], r1.2.setPc (s.pc + 2)) ∨
      fetchBytes s = ([r0.1, r1.1, r2.1], r2.2.setPc (s.pc + 3)) := by
  have pc2 : s.pc + 1 + 1 = s.pc + 2 := by bv_omega
  have pc3 : s.pc + 2 + 1 = s.pc + 3 := by bv_omega
  simp only [fetchBytes, fetch8_eq s, fetch8_setPc, pc2, pc3]
  cases (tableEntry (memRead s.pc s).1).mode.format with
  | op => exact Or.inl rfl
  | opB => exact Or.inr (Or.inl rfl)
  | opW => exact Or.inr (Or.inr rfl)

/-- The bytes of a fetch are those of one instruction, with none left over. -/
theorem decode_fetchBytes (s : State) :
    decode (fetchBytes s).1 = .ok (instrOfBytes (fetchBytes s).1, []) := by
  have length := fetchBytes_length s
  have head := fetchBytes_head s
  cases bytes : (fetchBytes s).1 with
  | nil =>
    rw [bytes] at length
    exact absurd length (by cases (tableEntry (fetch8 s).1).mode <;> decide)
  | cons op ops =>
    rw [bytes] at length head
    have opcode : op = (fetch8 s).1 := head
    rw [← opcode] at length
    have decoded := decode_operandBytes length []
    rw [List.append_nil] at decoded
    exact decoded

/-- Settles O7: the fetch reads through the bus in order, and its reads do not look at the `PC` it
moves. -/
theorem fetchReadsOneInstruction : Obligations.FetchReadsOneInstruction := by
  unfold Obligations.FetchReadsOneInstruction
  intro s r0 r1 r2 n
  have reads := fetchBytes_onlyReads s
  have pc : (fetchBytes s).2.pc.toNat = (s.pc.toNat + n) % 65536 := by
    rw [reads.pc, setPc_pc, BitVec.toNat_add, BitVec.toNat_ofNat, Nat.add_mod_mod]
  refine ⟨decode_fetchBytes s, by rw [fetch8_eq], ?_⟩
  have frame : SameMachine s (fetchBytes s).2 ∧ SameRam s (fetchBytes s).2 ∧
      (fetchBytes s).2.out = s.out ∧ Regs (fetchBytes s).2 s.a s.x s.y s.sp (fetchBytes s).2.pc ∧
      (fetchBytes s).2.p = s.p :=
    ⟨reads.sameMachine, reads.sameRam, reads.out, ⟨reads.a, reads.x, reads.y, reads.sp, rfl⟩, reads.p⟩
  rcases fetchBytes_eq s with fetched | fetched | fetched
  · have one : n = 1 := by simp only [n, fetched]; rfl
    rw [one] at pc ⊢
    exact ⟨by rw [fetched]; rfl, fun _ => by rw [fetched], by simp, by simp, by simp, by simp, pc,
      frame⟩
  · have two : n = 2 := by simp only [n, fetched]; rfl
    rw [two] at pc ⊢
    exact ⟨by rw [fetched]; rfl, by simp, fun _ => by rw [fetched], by simp, by simp, by simp, pc,
      frame⟩
  · have three : n = 3 := by simp only [n, fetched]; rfl
    rw [three] at pc ⊢
    exact ⟨by rw [fetched]; rfl, by simp, by simp, fun _ => by rw [fetched], by simp, by simp, pc,
      frame⟩

end Sys2Proof.Machine
end

section
/-! PROOFS. The device registers and the video memory behind them (60_exceptions.md section C,
20_memory.md section 8). -/

namespace Sys2Proof.Machine

section Access
variable {a : Word} {k : Nat} (above : 0x2000 ≤ a.toNat) (below : a.toNat ≤ 0x3FFF)
  (register : a.toNat % 8 = k % 8)
include above below register

/-- A store in the device window is a write of the register of that number. -/
theorem memWrite_devRegOf (v : Byte) (s : State) :
    memWrite a v s = s.setVtu (devWrite (devRegOf k) v s.vtu) := by
  rw [memWrite_device (route_devRegOf above below), devRegOf_mod register]

theorem memRead_devRegOf (s : State) : memRead a s = devRead (devRegOf k) s := by
  rw [memRead_device (route_devRegOf above below), devRegOf_mod register]

end Access

/-! ## Video memory -/

theorem vramWrite_eq (a : Word) (v : Byte) (u : Vtu) : ∃ m, vramWrite a v u = { u with vram := m } :=
  ⟨_, (vramWrite_keeps a v u).1⟩

section Vram
variable {a : Word} {c : Cartridge} {s : State}

theorem vramRead_chr (hc : s.cart = some c) (below : a.toNat % 0x4000 < 0x2000) :
    vramRead a s = (Memory.read c.chr.bytes (a.toNat % 0x4000), s) := by
  rw [vramRead, if_pos (by omega), hc]

theorem vramRead_vram (above : 0x2000 ≤ a.toNat % 0x4000) :
    vramRead a s = (Memory.read s.vtu.vram (a.toNat % 0x4000 - 0x2000), s) := by
  rw [vramRead, if_neg (by omega)]

theorem vramWrite_vram (above : 0x2000 ≤ a.toNat % 0x4000) (v : Byte) (u : Vtu) :
    vramWrite a v u = { u with vram := Memory.write u.vram (a.toNat % 0x4000 - 0x2000) v } := by
  rw [vramWrite, if_neg (by omega)]

/-- With a cartridge a video read changes nothing. -/
theorem vramRead_snd (hc : s.cart = some c) : (vramRead a s).2 = s := by
  rcases Nat.lt_or_ge (a.toNat % 0x4000) 0x2000 with below | above
  · rw [vramRead_chr hc below]
  · rw [vramRead_vram above]

end Vram

/-- Settles O59: by the half of the video space that each of the two addresses lies in. -/
theorem videoMemory : Obligations.VideoMemory := by
  unfold Obligations.VideoMemory
  intro c a b v s hc
  dsimp only
  refine ⟨?_, ?_, vramWrite_keeps a v⟩
  · rcases Nat.lt_or_ge (b.toNat % 0x4000) 0x2000 with below | above
    · rw [vramRead_chr hc below, if_pos below]
    · rw [vramRead_vram above, if_neg (by omega)]
  · rcases Nat.lt_or_ge (b.toNat % 0x4000) 0x2000 with below | above
    · have hc' : (s.setVtu (vramWrite a v s.vtu)).cart = some c := hc
      rw [vramRead_chr hc' below, vramRead_chr hc below, if_neg (by omega)]
    · rw [vramRead_vram above, vramRead_vram above, setVtu_vtu]
      rcases Nat.lt_or_ge (a.toNat % 0x4000) 0x2000 with chr | vram
      · rw [(vramWrite_keeps a v s.vtu).2 chr, if_neg (by omega)]
      · have same : b.toNat % 0x4000 - 0x2000 = a.toNat % 0x4000 - 0x2000 ↔
            a.toNat % 0x4000 = b.toNat % 0x4000 ∧ 0x2000 ≤ a.toNat % 0x4000 := by omega
        rw [vramWrite_vram vram, Memory.read_write]
        simp only [same]

/-! ## Stores -/

/-- Settles O56: each store writes the register that the address modulo 8 names. -/
theorem deviceStores : Obligations.DeviceStores := by
  unfold Obligations.DeviceStores
  intro a v s above below
  refine ⟨fun r => memWrite_devRegOf (k := 3) above below r v s,
    fun r => memWrite_devRegOf (k := 1) above below r v s, fun r => ?_⟩
  rw [memWrite_devRegOf (k := 7) above below r]
  obtain ⟨vram, stored⟩ := vramWrite_eq s.vtu.vramAddr v s.vtu
  change s.setVtu (stepVramAddr (vramWrite s.vtu.vramAddr v s.vtu)) = _
  rw [stored]
  rfl

section Latch
variable {u : Vtu} (v : Byte)

theorem devWrite_scroll_first (first : u.writeLatch = false) :
    devWrite .scroll v u = { u with scrollX := v, writeLatch := true } := by simp [devWrite, first]

theorem devWrite_scroll_second (second : u.writeLatch = true) :
    devWrite .scroll v u = { u with scrollY := v, writeLatch := false } := by simp [devWrite, second]

theorem devWrite_address_first (first : u.writeLatch = false) : devWrite .address v u =
    { u with vramAddr := mkWord v (loByte u.vramAddr), writeLatch := true } := by simp [devWrite, first]

theorem devWrite_address_second (second : u.writeLatch = true) : devWrite .address v u =
    { u with vramAddr := mkWord (hiByte u.vramAddr) v, writeLatch := false } := by
  simp [devWrite, second]

end Latch

/-- Settles O57: as O56, and by the latch for the two registers that take two bytes. -/
theorem latchedDeviceStores : Obligations.LatchedDeviceStores := by
  unfold Obligations.LatchedDeviceStores
  intro a v s above below u w
  have register : ∀ k, a.toNat % 8 = k % 8 → u = devWrite (devRegOf k) v s.vtu := fun k r =>
    congrArg State.vtu (memWrite_devRegOf above below r v s)
  refine ⟨?_, register 0, register 2, fun r => ?_, fun r latch => ?_, fun r latch => ?_,
    fun r latch => ?_, fun r latch => ?_⟩
  · rw [register a.toNat rfl]
    exact memWrite_devRegOf above below rfl v s
  · rw [register 4 r]
    exact ⟨rfl, fun i => Memory.read_write s.vtu.oam s.vtu.oamAddr.toNat i v⟩
  · exact (register 5 r).trans (devWrite_scroll_first v latch)
  · exact (register 5 r).trans (devWrite_scroll_second v latch)
  · rw [(register 6 r).trans (devWrite_address_first v latch)]
    exact ⟨rfl, by rw [mkWord_toNat, loByte_toNat]⟩
  · rw [(register 6 r).trans (devWrite_address_second v latch)]
    exact ⟨rfl, by rw [mkWord_toNat, hiByte_toNat]⟩

/-! ## Reads -/

theorem statusByte_vblank (u : Vtu) (bus : Byte) : (statusByte u bus).getLsbD 7 = u.vblank := by
  cases v : u.vblank <;> cases z : u.sprite0 <;> simp [statusByte, v, z]

theorem statusByte_sprite0 (u : Vtu) (bus : Byte) : (statusByte u bus).getLsbD 6 = u.sprite0 := by
  cases v : u.vblank <;> cases z : u.sprite0 <;> simp [statusByte, v, z]

/-- Settles O58: each read is the one of the register that the address modulo 8 names. -/
theorem deviceReads : Obligations.DeviceReads := by
  unfold Obligations.DeviceReads
  intro a s above below r
  have register : ∀ k, a.toNat % 8 = k % 8 → r = devRead (devRegOf k) s := fun k h =>
    memRead_devRegOf above below h s
  refine ⟨fun h => ?_, register 4, fun h => ?_, fun h installed => ?_, fun h => ?_⟩
  · rw [register 2 h]
    exact ⟨statusByte_vblank .., statusByte_sprite0 .., rfl⟩
  · rw [register 7 h]; rfl
  · obtain ⟨c, hc⟩ := Option.isSome_iff_exists.mp installed
    rw [register 7 h]
    change (vramRead s.vtu.vramAddr s).2.setVtu (stepVramAddr (vramRead s.vtu.vramAddr s).2.vtu) = _
    rw [vramRead_snd hc]
    rfl
  · simp only [List.mem_cons, List.not_mem_nil, or_false] at h
    rcases h with h | h | h | h | h
    · rw [register 0 h]; rfl
    · rw [register 1 h]; rfl
    · rw [register 3 h]; rfl
    · rw [register 5 h]; rfl
    · rw [register 6 h]; rfl

end Sys2Proof.Machine
end

section
/-! PROOFS. The advance of the video-timing unit (60_exceptions.md section B). -/

namespace Sys2Proof.Machine

/-! ## What a tick does to each field, by the position it reaches -/

/-- The position of the unit. -/
def Vtu.position (u : Vtu) : Nat × Nat := (u.scanline, u.dot)

/-- The state whose position is one dot further, before the event of that position. -/
def moved (s : State) : State :=
  s.setVtu { s.vtu with
    scanline := (nextPosition s.vtu.scanline s.vtu.dot).1
    dot := (nextPosition s.vtu.scanline s.vtu.dot).2 }

theorem tick_eq_moved (s : State) : tick s = sprite0Draw (positionEvent (moved s)) := rfl

theorem tick_vtu_position (s : State) : (tick s).vtu.position = (moved s).vtu.position :=
  tick_position s

/-- The oracle writes `sprite0` and its counter only. -/
theorem sprite0Draw_eq (s : State) : ∃ z n, sprite0Draw s =
    s.setVtu { s.vtu with sprite0 := z, oracleDraws := n } := by
  unfold sprite0Draw
  split
  · exact ⟨_, _, rfl⟩
  · exact ⟨_, _, rfl⟩

theorem position_eq_iff {u : Vtu} {sl d : Nat} : u.position = (sl, d) ↔ u.scanline = sl ∧ u.dot = d :=
  Prod.mk.injEq .. ▸ Iff.rfl

/-- The oracle never clears `sprite0`, and is not consulted at (261, 1). -/
theorem sprite0Draw_sprite0 (s : State) : (sprite0Draw s).vtu.sprite0 =
    if s.vtu.position = (261, 1) then s.vtu.sprite0
    else s.vtu.sprite0 || Config.sprite0Oracle s.vtu.oracleDraws := by
  simp only [sprite0Draw, position_eq_iff]
  split
  · rfl
  · rfl

section Draw
variable (s : State)

@[simp] theorem sprite0Draw_vblank : (sprite0Draw s).vtu.vblank = s.vtu.vblank := by
  obtain ⟨z, n, h⟩ := sprite0Draw_eq s; rw [h]; rfl
@[simp] theorem sprite0Draw_frameReady : (sprite0Draw s).vtu.frameReady = s.vtu.frameReady := by
  obtain ⟨z, n, h⟩ := sprite0Draw_eq s; rw [h]; rfl
@[simp] theorem sprite0Draw_frameBuffer : (sprite0Draw s).vtu.frameBuffer = s.vtu.frameBuffer := by
  obtain ⟨z, n, h⟩ := sprite0Draw_eq s; rw [h]; rfl
@[simp] theorem sprite0Draw_nmiPending : (sprite0Draw s).nmiPending = s.nmiPending := by
  obtain ⟨z, n, h⟩ := sprite0Draw_eq s; rw [h]; rfl

@[simp] theorem vblankStart_vtu : (vblankStart s).vtu = { s.vtu with vblank := true } := by
  unfold vblankStart; dsimp only; split <;> rfl

theorem vblankStart_nmiPending :
    (vblankStart s).nmiPending = (s.nmiPending || nmiEnable s.vtu) := by
  unfold vblankStart; dsimp only; split <;> simp_all

end Draw

/-- A tick moves the position by one dot, makes the event of the position reached, if it has one, and
consults the oracle. -/
theorem tick_cases (s : State) :
    let pos := (tick s).vtu.position
    (pos = (241, 1) ∧ tick s = sprite0Draw (vblankStart (moved s))) ∨
    (pos = (261, 1) ∧ tick s = sprite0Draw (preRender (moved s))) ∨
    (pos = (261, 340) ∧ tick s = sprite0Draw (frameEnd (moved s))) ∨
    (pos ≠ (241, 1) ∧ pos ≠ (261, 1) ∧ pos ≠ (261, 340) ∧ tick s = sprite0Draw (moved s)) := by
  intro pos
  have reached : pos = (moved s).vtu.position := tick_vtu_position s
  simp only [reached, tick_eq_moved s, positionEvent, ne_eq, position_eq_iff]
  split
  · exact Or.inl ⟨‹_›, rfl⟩
  · split
    · exact Or.inr (Or.inl ⟨‹_›, rfl⟩)
    · split
      · exact Or.inr (Or.inr (Or.inl ⟨‹_›, rfl⟩))
      · exact Or.inr (Or.inr (Or.inr ⟨‹_›, ‹_›, ‹_›, rfl⟩))

section Fields
variable (s : State)

theorem tick_vblank : (tick s).vtu.vblank = if (tick s).vtu.position = (241, 1) then true
    else if (tick s).vtu.position = (261, 1) then false else s.vtu.vblank := by
  rcases tick_cases s with ⟨pos, event⟩ | ⟨pos, event⟩ | ⟨pos, event⟩ | ⟨no, no', -, event⟩
  · rw [pos, event]; simp
  · rw [pos, event]; simp [preRender]
  · rw [pos, event]; simp [frameEnd, moved]
  · rw [if_neg no, if_neg no', event]; simp [moved]

theorem tick_nmiPending : (tick s).nmiPending = if (tick s).vtu.position = (241, 1) then
    (s.nmiPending || nmiEnable s.vtu) else s.nmiPending := by
  rcases tick_cases s with ⟨pos, event⟩ | ⟨pos, event⟩ | ⟨pos, event⟩ | ⟨no, -, -, event⟩
  · rw [pos, event, sprite0Draw_nmiPending, vblankStart_nmiPending]; rfl
  · rw [pos, event]; simp [preRender, moved]
  · rw [pos, event]; simp [frameEnd, moved]
  · rw [if_neg no, event]; simp [moved]

theorem tick_sprite0 : (tick s).vtu.sprite0 = if (tick s).vtu.position = (261, 1) then false
    else s.vtu.sprite0 || Config.sprite0Oracle s.vtu.oracleDraws := by
  have place := tick_vtu_position s
  rcases tick_cases s with ⟨pos, event⟩ | ⟨pos, event⟩ | ⟨pos, event⟩ | ⟨-, no, -, event⟩
  all_goals rw [event, sprite0Draw_sprite0]
  · simp_all [moved, Vtu.position]
  · simp_all [moved, Vtu.position, preRender]
  · simp_all [moved, Vtu.position, frameEnd]
  · simp_all [moved, Vtu.position]

/-- The frame is composed and flagged at (261, 340) only. -/
theorem tick_frame : ((tick s).vtu.frameReady, (tick s).vtu.frameBuffer) =
    if (tick s).vtu.position = (261, 340) then
      (true, Config.composite s.vtu.ctrl s.vtu.mask s.vtu.scrollX s.vtu.scrollY s.vtu.oam s.vtu.vram
        (graphicsData s))
    else (s.vtu.frameReady, s.vtu.frameBuffer) := by
  rcases tick_cases s with ⟨pos, event⟩ | ⟨pos, event⟩ | ⟨pos, event⟩ | ⟨-, -, no, event⟩
  · rw [pos, event]; simp [moved]
  · rw [pos, event]; simp [moved, preRender]
  · rw [pos, event]; simp [moved, frameEnd, graphicsData]
  · rw [if_neg no, event]; simp [moved]

end Fields

/-- Settles O52: field by field, by the position a tick reaches. -/
theorem vblankEvents : Obligations.VblankEvents := by
  unfold Obligations.VblankEvents
  refine fun s => ⟨fun start => ⟨?_, ?_⟩, fun pre => ⟨?_, ?_⟩, fun notStart => ?_,
    fun notStart notPre => ?_, fun notPre set => ?_⟩
  · rw [tick_vblank, Vtu.position, start]; rfl
  · rw [tick_nmiPending, Vtu.position, start]; rfl
  · rw [tick_vblank, Vtu.position, pre]; rfl
  · rw [tick_sprite0, Vtu.position, pre]; rfl
  · rw [tick_nmiPending, Vtu.position, if_neg notStart]
  · rw [tick_vblank, Vtu.position, if_neg notStart, if_neg notPre]
  · rw [tick_sprite0, Vtu.position, if_neg notPre, set, Bool.true_or]

/-- Settles O54: the frame's two fields, by the position a tick reaches. -/
theorem frameEndRule : Obligations.FrameEnd := by
  unfold Obligations.FrameEnd
  refine fun c s hc => ⟨fun last => ?_, fun notLast => ?_⟩
  · have frame := tick_frame s
    rw [Vtu.position, if_pos last, graphicsData, hc] at frame
    exact Prod.mk.inj frame
  · have frame := tick_frame s
    rw [Vtu.position, if_neg notLast] at frame
    exact Prod.mk.inj frame

/-! ## The position -/

theorem positionOk_iff {u : Vtu} : positionOk u = true ↔ u.scanline < 262 ∧ u.dot < 341 := by
  simp only [positionOk, Bool.and_eq_true, decide_eq_true_eq]

theorem frameDot_lt {u : Vtu} (ok : positionOk u = true) : u.frameDot < 89342 := by
  obtain ⟨scanline, dot⟩ := positionOk_iff.mp ok
  simp only [Vtu.frameDot, Config.dotsPerScanline]
  omega

theorem tick_frameDot {s : State} (ok : positionOk s.vtu = true) :
    (tick s).vtu.frameDot = (s.vtu.frameDot + 1) % 89342 := by
  obtain ⟨scanline, dot⟩ := positionOk_iff.mp ok
  obtain ⟨-, -, next⟩ := nextPosition_frameDot scanline dot
  rw [← tick_position] at next
  exact next

theorem ticks_positionOk (n : Nat) {s : State} (ok : positionOk s.vtu = true) :
    positionOk (ticks n s).vtu = true :=
  ticks_keeps (p := fun s => positionOk s.vtu = true) (fun _ h => tick_positionOk h) n ok

theorem ticks_frameDot (n : Nat) {s : State} (ok : positionOk s.vtu = true) :
    (ticks n s).vtu.frameDot = (s.vtu.frameDot + n) % 89342 := by
  induction n with
  | zero =>
    rw [Nat.add_zero, Nat.mod_eq_of_lt (frameDot_lt ok), ticks]
  | succ n ih =>
    rw [ticks_succ, tick_frameDot (ticks_positionOk n ok), ih]
    omega

/-- Settles O51: one dot a tick, and the position of a dot on the frame. -/
theorem positionAfterTicks : Obligations.PositionAfterTicks := by
  unfold Obligations.PositionAfterTicks
  refine ⟨fun n s ok => ⟨ticks_positionOk n ok, ticks_frameDot n ok⟩, fun c s scanline dot => ?_⟩
  have ok : positionOk s.vtu = true := positionOk_iff.mpr (by omega)
  have reached := ticks_frameDot (3 * c) ok
  obtain ⟨scanline', dot'⟩ := positionOk_iff.mp (ticks_positionOk (3 * c) ok)
  simp only [Vtu.frameDot, Config.dotsPerScanline, scanline, dot, Nat.zero_mul, Nat.zero_add] at reached
  have frames : 3 * c / 341 / 262 = 3 * c / 89342 := Nat.div_div_eq_div_mul ..
  rw [advanceCycles]
  omega

/-- On the frame a position is known by its dot in the frame. -/
theorem position_eq_iff_frameDot {u : Vtu} (ok : positionOk u = true) {sl d : Nat} (hd : d < 341) :
    u.position = (sl, d) ↔ u.frameDot = sl * 341 + d := by
  obtain ⟨scanline, dot⟩ := positionOk_iff.mp ok
  simp only [position_eq_iff, Vtu.frameDot, Config.dotsPerScanline]
  omega

theorem inVblank_eq (u : Vtu) : inVblank u = decide (82182 ≤ u.frameDot ∧ u.frameDot < 89002) := by
  simp [inVblank]

/-- A tick keeps `vblank` in agreement with the position. -/
theorem tick_inVblank {s : State} (ok : positionOk s.vtu = true)
    (agrees : s.vtu.vblank = inVblank s.vtu) : (tick s).vtu.vblank = inVblank (tick s).vtu := by
  have next := tick_frameDot ok
  have onFrame := frameDot_lt ok
  have ok' := tick_positionOk ok
  rw [tick_vblank, agrees, inVblank_eq, inVblank_eq]
  simp only [position_eq_iff_frameDot ok' (by decide : 1 < 341)]
  split
  · exact (decide_eq_true (by omega)).symm
  · split
    · exact (decide_eq_false (by omega)).symm
    · exact decide_eq_decide.mpr (by omega)

/-- Settles O53: the agreement is an invariant of the ticks. -/
theorem vblankWindow : Obligations.VblankWindow := by
  unfold Obligations.VblankWindow
  intro n s ok agrees
  have kept := ticks_keeps
    (p := fun s => positionOk s.vtu = true ∧ s.vtu.vblank = inVblank s.vtu)
    (fun s ⟨ok, agrees⟩ => ⟨tick_positionOk ok, tick_inVblank ok agrees⟩) n ⟨ok, agrees⟩
  exact kept.2

/-! ## What an advance leaves alone -/

/-- Settles O55: one tick changes no more, so neither do n. -/
theorem advanceKeepsProcessor : Obligations.AdvanceKeepsProcessor := by
  unfold Obligations.AdvanceKeepsProcessor
  intro n s
  induction n generalizing s with
  | zero => exact ⟨_, _, _, _, _, _, _, _, rfl⟩
  | succ n ih =>
    obtain ⟨sl, d, vb, sp, fr, fb, nd, unit⟩ := tick_vtu_eq s
    obtain ⟨nmi', vb', sp', fr', sl', d', nd', fb', later⟩ := ih (tick s)
    refine ⟨nmi', vb', sp', fr', sl', d', nd', fb', ?_⟩
    rw [ticks, later, tick_eq s, unit]
    rfl

end Sys2Proof.Machine
end

section
/-! PROOFS. The step at a boundary and the host's actions (60_exceptions.md section A4). -/

namespace Sys2Proof.Machine

theorem step_eq (s : State) : step s = machineStep (nextBoundary s).1.irqRequest (atBoundary s) := rfl

section Service
variable {s : State} {irq : Bool}

theorem serviceInterrupt_nmi (pending : s.nmiPending = true) : serviceInterrupt irq s =
    some ((raiseInterrupt .nonMaskable (s.setNmiPending false)).2.setOut ⟨7, none⟩) := by
  rw [serviceInterrupt, if_pos pending, raiseInterrupt_taken (Or.inl (by decide))]

theorem serviceInterrupt_irq (idle : s.nmiPending = false) (request : irq = true)
    (unmasked : flagI s.p = false) : serviceInterrupt irq s =
      some ((raiseInterrupt .maskable s).2.setOut ⟨7, none⟩) := by
  simp [serviceInterrupt, idle, request, unmasked, raiseInterrupt_taken]

theorem serviceInterrupt_none (idle : s.nmiPending = false) (no : irq = false ∨ flagI s.p = true) :
    serviceInterrupt irq s = none := by
  rcases no with no | masked
  · simp [serviceInterrupt, idle, no]
  · simp [serviceInterrupt, idle, masked]

end Service

/-- Settles O44: a running machine services what `serviceInterrupt` finds, else runs an instruction. -/
theorem stepPriority : Obligations.StepPriority := by
  unfold Obligations.StepPriority
  intro s running u irq
  have run : step s = _ := (step_eq s).trans (machineStep_running running irq)
  refine ⟨fun pending => ?_, fun idle request unmasked => ?_, fun idle no => ?_⟩
  · rw [run, serviceInterrupt_nmi pending]; rfl
  · rw [run, serviceInterrupt_irq idle request unmasked]; rfl
  · rw [run, serviceInterrupt_none idle no]

/-- Settles O45: at a quiet boundary the step is `cpuStep`, which runs the instruction its bytes decode
to. -/
theorem stepRunsDecoded : Obligations.StepRunsDecoded := by
  unfold Obligations.StepRunsDecoded
  intro s i running quiet decoded wf
  simp only [State.quiet, Bool.and_eq_true, Bool.not_eq_true', List.isEmpty_iff] at quiet
  obtain ⟨⟨idle, noActions⟩, noRequest⟩ := quiet
  have boundary : atBoundary s = (nextBoundary s).2 := by rw [atBoundary, noActions, hostActs]
  have state : (nextBoundary s).2 = s.setInputs s.inputs.tail := nextBoundary_state s
  obtain ⟨-, -, runsInstr⟩ := stepPriority s (by rw [boundary, state]; exact running)
  have run : step s = cpuStep (atBoundary s) :=
    runsInstr (by rw [boundary, state]; exact idle) (Or.inl noRequest)
  have instr : instrOfBytes (fetchBytes (nextBoundary s).2).1 = i := by
    rw [decode_fetchBytes] at decoded
    exact (Prod.mk.inj (Except.ok.inj decoded)).1
  rw [run, boundary, cpuStep]
  cases ran : exec i (fetchBytes (nextBoundary s).2).2 <;> simp only [instr, ran]

/-! ## The host -/

section HostAct
variable {s : State}

theorem hostAct_installRoms {prg chr : List Byte} {c : Cartridge} (awake : s.halted = false)
    (empty : s.cart = none) (legal : installRoms prg chr = .ok c) :
    hostAct (.installRoms prg chr) s = s.setCart (some c) := by
  simp [hostAct, hostEnabled, awake, empty, legal]

theorem hostAct_reset {c : Cartridge} (hc : s.cart = some c) (awake : s.halted = false) :
    hostAct .reset s = resetMachine s := by
  simp [hostAct, hostEnabled, hc, awake]

theorem hostAct_nmiRequest (awake : s.halted = false) :
    hostAct .nmiRequest s = s.setNmiPending true := by
  simp [hostAct, hostEnabled, awake]

theorem hostAct_frameRead (awake : s.halted = false) : hostAct .frameRead s = (frameRead s).2 := by
  simp [hostAct, hostEnabled, awake]

end HostAct

/-- Settles O60: both requests are enabled on a machine that is not halted; a step tests the halt, the
cartridge and the Reset in that order. -/
theorem hostActionEffects : Obligations.HostActionEffects := by
  unfold Obligations.HostActionEffects
  refine ⟨fun s awake => ⟨hostAct_nmiRequest awake, rfl, hostAct_frameRead awake⟩,
    fun s awake => ⟨fun empty => ?_, fun installed notReset => ?_⟩⟩
  · simp [step_eq, machineStep, awake, empty]
  · have cart : (atBoundary s).cart.isNone = false := by
      simpa [Option.isNone_eq_false_iff] using installed
    simp [step_eq, machineStep, awake, cart, notReset]

/-- Settles O46: Reset is the entry that pushes nothing, with the unit at its construction values. -/
theorem resetEffect : Obligations.ResetEffect := by
  unfold Obligations.ResetEffect
  intro c s hc awake
  dsimp only
  rw [hostAct_reset hc awake, resetMachine_eq hc]
  exact ⟨⟨rfl, rfl, rfl, rfl, vectorWord_reset c⟩, statusIs_withI s.p true, rfl, awake, rfl, rfl,
    rfl, rfl, rfl, rfl⟩

/-- Settles O50: the invariant is evaluated, and the literal is what Reset gives, field by field. -/
theorem invariantAtReset : Obligations.InvariantAtReset := by
  unfold Obligations.InvariantAtReset
  have status : withI 0x20 true = 0x24 := by decide
  refine ⟨rfl, rfl, ?_⟩
  rw [hostAct_reset (setCart_cart ..) rfl, resetMachine_eq (setCart_cart ..), State.reset, ← status]
  rfl

end Sys2Proof.Machine
end

section
/-! PROOFS. The cartridge (20_memory.md section 3) and the machine at power-on (70_reset_and_hazards.md
part A). -/

namespace Sys2Proof.Machine

theorem prgSizeOk_iff {n : Nat} : prgSizeOk n = true ↔ n = 16384 ∨ n = 32768 := by
  simp only [prgSizeOk, Bool.or_eq_true, decide_eq_true_eq, Config.prgBank]

theorem chrSizeOk_iff {n : Nat} : chrSizeOk n = true ↔ 0 < n ∧ n % 8192 = 0 := by
  simp [chrSizeOk]

/-- The cartridge that holds two byte blocks. -/
def cartridgeOf (prg chr : List Byte) : Cartridge :=
  ⟨⟨prg.length, Memory.ofBytes 0 prg⟩, ⟨chr.length, Memory.ofBytes 0 chr⟩⟩

section Install
variable {prg chr : List Byte}

theorem installRoms_legal (hp : prg.length = 16384 ∨ prg.length = 32768)
    (hc : 0 < chr.length ∧ chr.length % 8192 = 0) :
    installRoms prg chr = .ok (cartridgeOf prg chr) := by
  rw [installRoms, prgSizeOk_iff.mpr hp, chrSizeOk_iff.mpr hc]; rfl

theorem installRoms_illegal (h : ¬((prg.length = 16384 ∨ prg.length = 32768) ∧ 0 < chr.length ∧
    chr.length % 8192 = 0)) : installRoms prg chr = .error .invalidRomSize := by
  rw [installRoms, if_neg]
  rwa [Bool.and_eq_true, prgSizeOk_iff, chrSizeOk_iff]

theorem cartridgeOk_cartridgeOf (hp : prg.length = 16384 ∨ prg.length = 32768)
    (hc : 0 < chr.length ∧ chr.length % 8192 = 0) : cartridgeOk (cartridgeOf prg chr) = true := by
  simp only [cartridgeOk, cartridgeOf, Bool.and_eq_true]
  exact ⟨⟨⟨prgSizeOk_iff.mpr hp, chrSizeOk_iff.mpr hc⟩,
    Memory.wfFrom_ofBytes 0 _ prg (by omega)⟩, Memory.wfFrom_ofBytes 0 _ chr (by omega)⟩

/-- What `installRoms` accepts is a legal cartridge. -/
theorem cartridgeOk_of_installRoms {c : Cartridge} (h : installRoms prg chr = .ok c) :
    cartridgeOk c = true := by
  by_cases legal : (prg.length = 16384 ∨ prg.length = 32768) ∧ 0 < chr.length ∧ chr.length % 8192 = 0
  · rw [installRoms_legal legal.1 legal.2] at h
    obtain rfl := Except.ok.inj h
    exact cartridgeOk_cartridgeOf legal.1 legal.2
  · rw [installRoms_illegal legal] at h; cases h

theorem read_ofBytes_zero (bs : List Byte) (i : Nat) :
    Memory.read (Memory.ofBytes 0 bs) i = bs.getD i 0 := by
  rw [Memory.read_ofBytes, if_pos (Nat.zero_le i)]; rfl

end Install

/-! ## What a step keeps -/

/-- A property that the host, an entry, an instruction after its fetch, and an advance keep is kept by
every step. -/
theorem step_keeps {p : State → Prop}
    (script : ∀ s inputs, p s → p (s.setInputs inputs))
    (host : ∀ act s, p s → p (hostAct act s))
    (entry : ∀ kind s, kind ≠ .reset → s.cart.isSome = true → p s → ∀ nmi out, p
      ((enterVector kind (pushFrame kind (s.setNmiPending nmi))).setOut out))
    (fetch : ∀ s, p s → p (fetchBytes s).2)
    (instr : ∀ i s t, p s → exec i s = .next t → p t)
    (advance : ∀ c s, p s → p (advanceCycles c s))
    {s t : State} (h : p s) (next : step s = .next t) : p t := by
  rw [step_eq] at next
  have running := machineStep_next next
  rw [machineStep_running running] at next
  have atB : p (atBoundary s) := by
    rw [atBoundary, nextBoundary_state]
    exact hostActs_keeps host _ (script s _ h)
  have installed : (atBoundary s).cart.isSome = true := by
    simp only [State.running, Bool.and_eq_true] at running
    exact running.1.2
  cases taken : serviceInterrupt (nextBoundary s).1.irqRequest (atBoundary s) with
  | some u =>
    rw [taken] at next
    obtain rfl := Host.Outcome.next.inj next
    refine advance _ _ ?_
    rcases serviceInterrupt_some taken with ⟨-, rfl⟩ | ⟨idle, -, -, rfl⟩
    · exact entry .nonMaskable _ (by decide) installed atB false _
    · have same : (atBoundary s).setNmiPending false = atBoundary s := by
        rw [State.setNmiPending, ← idle]
      have entered := entry .maskable _ (by decide) installed atB false ⟨Config.entryCycles, none⟩
      rwa [same] at entered
  | none =>
    rw [taken] at next
    obtain ⟨u, ran, rfl⟩ := cpuStep_next next
    exact advance _ _ (instr _ _ _ (fetch _ atB) ran)

/-- Settles O48: the sizes are what `installRoms` tests, the blocks read as the bytes they were made of,
and no part of a step writes the cartridge. -/
theorem cartridgeInstalledOnce : Obligations.CartridgeInstalledOnce := by
  unfold Obligations.CartridgeInstalledOnce
  refine ⟨fun prg chr => ?_, fun c s t hc next => ?_⟩
  · split
    · rename_i legal
      obtain ⟨hp, hc⟩ := legal
      exact ⟨_, installRoms_legal hp hc, cartridgeOk_cartridgeOf hp hc, rfl, rfl,
        fun i _ => read_ofBytes_zero prg i, fun i _ => read_ofBytes_zero chr i⟩
    · rename_i illegal
      exact installRoms_illegal illegal
  · exact step_keeps (p := fun s => s.cart = some c) (fun _ _ h => h)
      (fun act s h => hostAct_cart h act)
      (fun kind s _ _ h nmi out => (keepsRest_enter kind (s.setNmiPending nmi)).cart.trans h)
      (fun s h => (fetchBytes_onlyReads s).cart.trans h)
      (fun i s t h ran => (keepsRest_exec ran).cart.trans h)
      (fun n s h => (advance_cart n s).trans h) hc next

/-! ## The invariant -/

theorem inv_iff {s : State} : s.inv = true ↔
    statusOk s.p = true ∧ positionOk s.vtu = true ∧ s.memoryWf = true ∧ s.cartOk = true := by
  simp only [State.inv, Bool.and_eq_true, and_assoc]

theorem cartOk_of_cart_eq {s t : State} (h : t.cart = s.cart) : t.cartOk = s.cartOk := by
  rw [State.cartOk, State.cartOk, h]

theorem positionOk_of_eq {u v : Vtu} (h : v.scanline = u.scanline) (h' : v.dot = u.dot) :
    positionOk v = positionOk u := by
  rw [positionOk, positionOk, h, h']

/-- What keeps the rest and bits 5 and 4 of `P` keeps the invariant. -/
theorem KeepsRest.inv {s t : State} (h : KeepsRest s t)
    (status : statusOk s.p = true → statusOk t.p = true) (inv : s.inv = true) : t.inv = true := by
  obtain ⟨p, position, wf, cart⟩ := inv_iff.mp inv
  obtain ⟨⟨-, sameCart, -, -, scanline, dot, -⟩, keepsWf⟩ := h
  exact inv_iff.mpr ⟨status p, (positionOk_of_eq scanline dot).trans position, keepsWf wf,
    (cartOk_of_cart_eq sameCart).trans cart⟩

theorem statusOk_withI (p : Byte) (i : Bool) : statusOk (withI p i) = statusOk p := by
  simp [statusOk]

theorem statusOk_exec {i : Instr} {s t : State} (ran : exec i s = .next t) (ok : statusOk s.p = true) :
    statusOk t.p = true := by
  obtain ⟨-, -, -, -, -, -, u, b⟩ := flagWriters i s t ok ran
  rwa [statusOk, u, b]

theorem inv_hostAct (act : HostAction) (s : State) (inv : s.inv = true) :
    (hostAct act s).inv = true := by
  unfold hostAct
  split
  · rename_i enabled
    cases act with
    | installRoms prg chr =>
      obtain ⟨p, position, wf, cart⟩ := inv_iff.mp inv
      dsimp only
      cases install : installRoms prg chr with
      | ok c => exact inv_iff.mpr ⟨p, position, wf, cartridgeOk_of_installRoms install⟩
      | error e => exact inv
    | reset =>
      obtain ⟨p, -, wf, cart⟩ := inv_iff.mp inv
      simp only [hostEnabled, Bool.and_eq_true] at enabled
      obtain ⟨c, hc⟩ := Option.isSome_iff_exists.mp enabled.2
      dsimp only
      rw [resetMachine_eq hc]
      exact inv_iff.mpr ⟨(statusOk_withI s.p true).trans p, rfl, wf, cart⟩
    | nmiRequest => exact inv
    | frameRead => exact inv
  · exact inv

theorem inv_enter {kind : InterruptKind} {s : State} (hk : kind ≠ .reset)
    (installed : s.cart.isSome = true) (inv : s.inv = true) : (enterVector kind (pushFrame kind s)).inv = true := by
  obtain ⟨c, hc⟩ := Option.isSome_iff_exists.mp installed
  refine (keepsRest_enter kind s).inv (fun ok => ?_) inv
  rwa [p_enter hc hk, statusOk_withI]

theorem inv_advance (c : Nat) (s : State) (inv : s.inv = true) : (advanceCycles c s).inv = true := by
  obtain ⟨p, position, wf, cart⟩ := inv_iff.mp inv
  refine inv_iff.mpr ⟨by rwa [advance_p], advance_positionOk c position, ?_,
    (cartOk_of_cart_eq (advance_cart c s)).trans cart⟩
  rw [memoryWf_iff] at wf ⊢
  rwa [advance_ram, advance_vtu_oam, advance_vtu_vram]

theorem inv_fetchBytes (s : State) (inv : s.inv = true) : (fetchBytes s).2.inv = true := by
  have reads := fetchBytes_onlyReads s
  have moved : KeepsRest s (s.setPc (s.pc + BitVec.ofNat 16 (fetchBytes s).1.length)) :=
    KeepsRest.rfl' s
  exact (moved.trans reads.keepsRest).inv (fun ok => by rwa [reads.p]) inv

/-- Settles O49: each part of a step keeps the invariant. -/
theorem stepKeepsInvariant : Obligations.StepKeepsInvariant := by
  unfold Obligations.StepKeepsInvariant
  intro s t inv next
  exact step_keeps (p := fun s => s.inv = true) (fun _ _ h => h) inv_hostAct
    (fun kind s hk installed h nmi out => inv_enter (s := s.setNmiPending nmi) hk installed h)
    inv_fetchBytes (fun i s t h ran => (keepsRest_exec ran).inv (statusOk_exec ran) h) inv_advance
    inv next

/-- Settles O47: the two actions are enabled in this order, and every value is the constructed machine's
or Reset's. -/
theorem powerOn : Obligations.PowerOn := by
  unfold Obligations.PowerOn
  intro prg chr hp hc t
  have reached : t = resetMachine (State.construct.setCart (some (cartridgeOf prg chr))) := by
    have installed := hostAct_installRoms (s := State.construct) rfl rfl (installRoms_legal hp hc)
    simp only [t, hostActs, installed]
    exact hostAct_reset (setCart_cart ..) rfl
  have inv : t.inv = true := hostActs_keeps (p := fun s => s.inv = true) inv_hostAct _ (by decide)
  rw [resetMachine_eq (setCart_cart _ _)] at reached
  have low : loByte (vectorWord (cartridgeOf prg chr) .reset) = prg.getD (0x7FFC % prg.length) 0 := by
    rw [vectorWord, loByte_mkWord]; exact read_ofBytes_zero prg _
  have high : hiByte (vectorWord (cartridgeOf prg chr) .reset) = prg.getD (0x7FFD % prg.length) 0 := by
    rw [vectorWord, hiByte_mkWord]; exact read_ofBytes_zero prg _
  have status : withI 0x20 true = 0x24 := by decide
  rw [reached] at inv ⊢
  exact ⟨rfl, inv, rfl, rfl, rfl, rfl, status, low, high, rfl, rfl, rfl⟩

end Sys2Proof.Machine
end
